-- ==== Sys2Proof/Word.lean ====
section
/-! DEFINITION. The two word types of the machine (`00_scope.md` R4: XLEN8 and XLEN16). -/

namespace Sys2Proof

/-- An 8-bit value: a register half, a memory cell, a bus transfer (R4, R10). -/
abbrev Byte := BitVec 8

/-- A 16-bit value: an address, SP, PC, a register pair, DIV (R4, R11, R14, R15, R22). -/
abbrev Word := BitVec 16

end Sys2Proof
end

