-- ==== Sys2Proof/Config.lean ====
section
/-! DEFINITION. The constants an implementation fixes and the spec leaves open (`00_scope.md` R4, "OPEN"). -/

namespace Sys2Proof

/-- `STUB_READ` (R4, R61, D4, U5): the byte every stub address returns on read, "value not given". A FREE VALUE: no
body, so nothing can evaluate it and no proof can rest on a number. It is only the value `State.reset` carries in its
field `stubRead`; a Step reads the field, so a statement about every state holds for every value (log 3). -/
opaque Config.stubRead : Byte

end Sys2Proof
end

