-- ==== Sys2Proof/Machine/State.lean ====
section
/-! DEFINITION. The machine's state as plain data (`10_state.md`), the reasons a Step stops, and reset
(`70_reset_and_hazards.md` R350). -/

namespace Sys2Proof.Machine

/-- The register file (R10 to R15): eight 8-bit registers, SP and PC. The pairs are views (R11). -/
structure Regs where
  a : Byte
  f : Byte
  b : Byte
  c : Byte
  d : Byte
  e : Byte
  h : Byte
  l : Byte
  sp : Word
  pc : Word
  deriving DecidableEq, Repr

/-- A delayed-transition countdown (R18): `idle` is 0, `due` is 1 ("falls due in the interrupt phase of the next
Step"), `armed` is 2 ("armed during this Step"). -/
inductive Countdown where
  | idle
  | due
  | armed
  deriving DecidableEq, Repr

/-- The interrupt controller (R17, R18, R20, R21). -/
structure IntCtl where
  ime : Bool
  pe : Countdown
  pd : Countdown
  ie : Byte
  iflag : Byte
  deriving DecidableEq, Repr

/-- The timer (R22 to R25): the 16-bit divider and the three 8-bit registers. -/
structure Timer where
  div : Word
  tima : Byte
  tma : Byte
  tac : Byte
  deriving DecidableEq, Repr

/-- Whether a refused bus access was a read or a write (R304). -/
inductive AccessKind where
  | read
  | write
  deriving DecidableEq, Repr

/-- The five fatal conditions (R300 to R305). A `raise` latches one in `State.fault`, keeping the effects made before
it; `step` answers the outcome `fault` with it from then on, since a latched machine takes no Step (R300). The stop is
safe: it is the spec's own, and nothing is proved of a Step that does not happen. -/
inductive Fault where
  /-- No table entry for the byte (R301). Raised by the default arm of the fetch; unreachable, the tables are total. -/
  | unknownOpcode (op : Byte) (addr : Word)
  /-- One of the eleven illegal primary opcodes (R302, R296). Raised by the meaning of ILLEGAL, and by nothing else. -/
  | illegalInstruction (op : Byte) (addr : Word)
  /-- A handler received an operand kind it cannot act on (R303). Raised by nothing: unreachable. -/
  | invalidOperand
  /-- A byte access to the echo or the unusable range (R304). Raised by any bus access, fetch, push and pop included. -/
  | busAccessError (addr : Word) (kind : AccessKind)
  /-- A documented opcode without a handler: STOP (R305, R291). Raised by the meaning of STOP, and by nothing else. -/
  | notImplemented (op : Byte) (addr : Word)
  deriving DecidableEq, Repr

/-- Why an instruction is refused. No meaning of this model refuses. -/
inductive Refusal where
  /-- The instruction has no meaning yet: raised only by an arm of `exec` that names it; safe (the run stops). No arm
  of this model raises it. -/
  | notModelled (mnemonic : String)
  deriving DecidableEq, Repr

/-- The contents of the backed part of the address space (ROM, CRAM, WRAM, HRAM): cells at strictly rising addresses,
none equal to what an unlisted address reads as (`Memory.wf` in Machine/Memory.lean). -/
abbrev Memory := List Host.Cell

/-- The whole state. The last two fields are the model's own: `stubRead` is the launch parameter STUB_READ, which a
Step reads and never writes (log 3); `requests` are the IF masks the host ORs in before the coming Steps, one a Step
(R312, log 8). `mem` holds WRAM, HRAM, CRAM (R26) and the launch parameter ROM at their bus addresses (log 2, log 7). -/
structure State where
  regs : Regs
  intc : IntCtl
  timer : Timer
  halted : Bool
  mem : Memory
  fault : Option Fault
  stubRead : Byte
  requests : List Byte
  deriving DecidableEq, Repr

/-- What one Step or one instruction's Operation answers. -/
abbrev Result := Host.Outcome State Fault Refusal

/-- The launch parameters of reset (R350, `00_scope.md` R4): the images of ROM, WRAM, HRAM and CRAM as one list of
cells, HEADER_CHECKSUM_NONZERO, STUB_READ. -/
structure Launch where
  image : Memory
  headerChecksumNonzero : Bool
  stubRead : Byte
  deriving DecidableEq, Repr

/-- The register file after reset (R31, R32, R33). -/
def Regs.reset (headerChecksumNonzero : Bool) : Regs :=
  { a := 0x01, f := if headerChecksumNonzero then 0xB0 else 0x80
    b := 0x00, c := 0x13, d := 0x00, e := 0xD8, h := 0x01, l := 0x4D
    sp := 0xFFFE, pc := 0x0100 }

/-- The interrupt controller after reset (R34, R35; log 5). -/
def IntCtl.reset : IntCtl :=
  { ime := false, pe := .idle, pd := .idle, ie := 0x00, iflag := 0x00 }

/-- The timer after reset (R36; log 5). -/
def Timer.reset : Timer :=
  { div := 0x0000, tima := 0x00, tma := 0x00, tac := 0x00 }

/-- The reset procedure (R350): every piece of state at its reset value, from the launch parameters. -/
def State.resetWith (p : Launch) : State :=
  { regs := Regs.reset p.headerChecksumNonzero
    intc := IntCtl.reset
    timer := Timer.reset
    halted := false
    mem := p.image
    fault := none
    stubRead := p.stubRead
    requests := [] }

/-- The launch of `State.reset`: no byte listed (log 2, log 7), the header checksum non-zero as in the spec's test
programs (log 4), STUB_READ the free value (log 3). -/
def Launch.bare : Launch :=
  { image := [], headerChecksumNonzero := true, stubRead := Config.stubRead }

/-- The machine right after reset. -/
def State.reset : State := State.resetWith Launch.bare

end Sys2Proof.Machine
end

