-- ==== Sys2Proof/Machine/Memory.lean ====
section
/-! DEFINITION. The cell list behind the backed ranges of the bus, in one canonical form. -/

namespace Sys2Proof.Machine

/-- What an unlisted cell reads as: the OPEN images INIT_WRAM, INIT_HRAM, INIT_CRAM and ROM of `00_scope.md` R4 give no
number, and this one is the model's (DESIGN CHOICE, log 2). -/
def Memory.unlisted : Byte := 0x00

/-- The addresses with a cell: ROM (R53), CRAM (R55), WRAM (R56), HRAM (R57). -/
def Memory.backed (a : Nat) : Bool :=
  a < 0x8000 || (0xA000 ≤ a && a < 0xE000) || (0xFF80 ≤ a && a < 0xFFFF)

/-- The byte of the cell at `a`. -/
def Memory.read (m : Memory) (a : Nat) : Byte :=
  match m with
  | [] => Memory.unlisted
  | (k, v) :: rest => if k = a then v else Memory.read rest a

/-- Put a cell before the first cell of a higher address. -/
def Memory.insert (m : Memory) (a : Nat) (v : Byte) : Memory :=
  match m with
  | [] => [(a, v)]
  | (k, w) :: rest => if a < k then (a, v) :: (k, w) :: rest else (k, w) :: Memory.insert rest a v

/-- Forget the cell at `a`. -/
def Memory.erase (m : Memory) (a : Nat) : Memory := m.filter fun cell => cell.1 ≠ a

/-- Store a byte: the value an unlisted address reads as removes the cell. -/
def Memory.write (m : Memory) (a : Nat) (v : Byte) : Memory :=
  if v = Memory.unlisted then Memory.erase m a else Memory.insert (Memory.erase m a) a v

/-- The canonical form: addresses strictly rising, no cell with the unlisted value, only backed addresses. -/
def Memory.wf (m : Memory) : Bool :=
  decide (m.Pairwise fun x y => x.1 < y.1) && m.all fun cell => cell.2 ≠ Memory.unlisted && Memory.backed cell.1

end Sys2Proof.Machine
end

