-- ==== Sys2Proof/Machine/Bits.lean ====
section
/-! DEFINITION. The bit-field, byte-order and sign-extension helpers of `00_scope.md` R5. -/

namespace Sys2Proof.Machine

/-- `v[15:8]`. -/
def hi8 (v : Word) : Byte := v.extractLsb' 8 8

/-- `v[7:0]`. -/
def lo8 (v : Word) : Byte := v.extractLsb' 0 8

/-- `hi ++ lo`: the 16-bit value of two bytes (R5, R11, R64, R95). -/
def word16 (hi lo : Byte) : Word := hi ++ lo

/-- `signed8(e)` as a 16-bit addend (R5: the integer e for e below 0x80, e − 256 otherwise). -/
def signed8 (e : Byte) : Word := e.signExtend 16

/-- An address of the 0xFF00 page: `0xFF00 | n` (`30_encoding.md` R97). -/
def ioPage (n : Byte) : Word := 0xFF00#16 ||| n.zeroExtend 16

end Sys2Proof.Machine
end

