-- ==== Sys2Proof/Machine/Flags.lean ====
section
/-! DEFINITION. Every flag computation of the spec, as functions of bytes (`42_alu8.md`, `43_alu16.md`,
`44_rotate_shift_bit.md`). -/

namespace Sys2Proof.Machine

/-! ### The four flags in F (R12) -/

def State.fZ (s : State) : Bool := s.regs.f.getLsbD 7
def State.fN (s : State) : Bool := s.regs.f.getLsbD 6
def State.fH (s : State) : Bool := s.regs.f.getLsbD 5
def State.fC (s : State) : Bool := s.regs.f.getLsbD 4

/-- Write the four flag bits of F; F[3:0] is not written (R6: `fZ <- b` writes that bit only; log 14). -/
def packFlags (old : Byte) (z n h c : Bool) : Byte :=
  BitVec.ofBool z ++ BitVec.ofBool n ++ BitVec.ofBool h ++ BitVec.ofBool c ++ old.extractLsb' 0 4

/-- A result byte with its half-carry and carry. -/
structure ByteResult where
  res : Byte
  h : Bool
  c : Bool
  deriving DecidableEq, Repr

/-- A result word with its half-carry and carry. -/
structure WordResult where
  res : Word
  h : Bool
  c : Bool
  deriving DecidableEq, Repr

/-! ### The carry-chain helpers -/

/-- `Add8` (R170). -/
def add8 (a b : Byte) (cin : Bool) : ByteResult :=
  { res := BitVec.ofNat 8 (a.toNat + b.toNat + cin.toNat)
    h := decide (a.toNat % 16 + b.toNat % 16 + cin.toNat > 0xF)
    c := decide (a.toNat + b.toNat + cin.toNat > 0xFF) }

/-- `Sub8` (R171). -/
def sub8 (a b : Byte) (cin : Bool) : ByteResult :=
  { res := BitVec.ofInt 8 ((a.toNat : Int) - b.toNat - cin.toNat)
    h := decide (a.toNat % 16 < b.toNat % 16 + cin.toNat)
    c := decide (a.toNat < b.toNat + cin.toNat) }

/-- `AddSP` (R220): H and C from the low byte, e taken as unsigned. -/
def addSp (sp : Word) (e : Byte) : WordResult :=
  { res := sp + e.signExtend 16
    h := decide (sp.toNat % 16 + e.toNat % 16 > 0xF)
    c := decide (sp.toNat % 256 + e.toNat > 0xFF) }

/-- The sum of `ADD HL,rr` (R223): half-carry out of bit 11 (`90_conflicts.md` C1), carry out of bit 15. -/
def add16 (x y : Word) : WordResult :=
  { res := BitVec.ofNat 16 (x.toNat + y.toNat)
    h := decide (x.toNat % 4096 + y.toNat % 4096 > 0xFFF)
    c := decide (x.toNat + y.toNat > 0xFFFF) }

/-! ### The accumulator operations -/

/-- `alu[y]` (R99). -/
inductive AluOp where
  | add | adc | sub | sbc | and | xor | or | cp
  deriving DecidableEq, Repr

/-- What an accumulator operation leaves: the new A, then Z, N, H, C. -/
structure AluResult where
  a : Byte
  z : Bool
  n : Bool
  h : Bool
  c : Bool
  deriving DecidableEq, Repr

/-- The Operation line of each accumulator operation (R172 to R195) on A, the operand and the old carry. -/
def alu (k : AluOp) (a v : Byte) (cin : Bool) : AluResult :=
  match k with
  | .add => let r := add8 a v false; ⟨r.res, r.res == 0, false, r.h, r.c⟩
  | .adc => let r := add8 a v cin; ⟨r.res, r.res == 0, false, r.h, r.c⟩
  | .sub => let r := sub8 a v false; ⟨r.res, r.res == 0, true, r.h, r.c⟩
  | .sbc => let r := sub8 a v cin; ⟨r.res, r.res == 0, true, r.h, r.c⟩
  | .and => ⟨a &&& v, (a &&& v) == 0, false, true, false⟩
  | .xor => ⟨a ^^^ v, (a ^^^ v) == 0, false, false, false⟩
  | .or => ⟨a ||| v, (a ||| v) == 0, false, false, false⟩
  | .cp => let r := sub8 a v false; ⟨a, r.res == 0, true, r.h, r.c⟩

/-! ### Increment, decrement, decimal adjust -/

/-- The half-carry of an 8-bit increment: the low nibble of the old value is 0xF (R196). -/
def incHalf (v : Byte) : Bool := v.extractLsb' 0 4 == 0xF#4

/-- The half-borrow of an 8-bit decrement: the low nibble of the old value is 0 (R198). -/
def decHalf (v : Byte) : Bool := v.extractLsb' 0 4 == 0x0#4

/-- The correction of `DAA` (R200; `90_conflicts.md` C6), both tests on the old A. -/
def daaCorrection (a : Byte) (n h c : Bool) : Byte :=
  (if h || (!n && decide (a.toNat % 16 > 9)) then 0x06#8 else 0x00#8) |||
  (if c || (!n && decide (a.toNat > 0x99)) then 0x60#8 else 0x00#8)

/-- The result of `DAA` (R200). -/
def daaResult (a : Byte) (n h c : Bool) : Byte :=
  if n then a - daaCorrection a n h c else a + daaCorrection a n h c

/-- The carry of `DAA` (R200): set by a 0x60 correction, else kept. -/
def daaCarry (a : Byte) (n c : Bool) : Bool := c || (!n && decide (a.toNat > 0x99))

/-! ### Rotates and shifts -/

/-- `rot[y]` (R99). -/
inductive RotOp where
  | rlc | rrc | rl | rr | sla | sra | swap | srl
  deriving DecidableEq, Repr

/-- The result column of `Rot(k, v, cin)` (R230). -/
def rotResult (k : RotOp) (v : Byte) (cin : Bool) : Byte :=
  match k with
  | .rlc => v.extractLsb' 0 7 ++ v.extractLsb' 7 1
  | .rrc => v.extractLsb' 0 1 ++ v.extractLsb' 1 7
  | .rl => v.extractLsb' 0 7 ++ BitVec.ofBool cin
  | .rr => BitVec.ofBool cin ++ v.extractLsb' 1 7
  | .sla => v.extractLsb' 0 7 ++ 0#1
  | .sra => v.extractLsb' 7 1 ++ v.extractLsb' 1 7
  | .swap => v.extractLsb' 0 4 ++ v.extractLsb' 4 4
  | .srl => 0#1 ++ v.extractLsb' 1 7

/-- The carry-out column of `Rot(k, v, cin)` (R230). -/
def rotCarry (k : RotOp) (v : Byte) : Bool :=
  match k with
  | .rlc => v.getLsbD 7
  | .rrc => v.getLsbD 0
  | .rl => v.getLsbD 7
  | .rr => v.getLsbD 0
  | .sla => v.getLsbD 7
  | .sra => v.getLsbD 0
  | .swap => false
  | .srl => v.getLsbD 0

/-- `1 << b` (8 bits; R253, R255). -/
def bitMask (b : Fin 8) : Byte := 1#8 <<< b.val

end Sys2Proof.Machine
end

