-- ==== Sys2Proof/Syntax.lean ====
section
/-! DEFINITION. The instructions: one constructor per row of `spec/opcode_table.json` (`30_encoding.md` R100, R101,
R106, R107), with the operands of the row decoded. -/

namespace Sys2Proof

/-- The 8-bit registers an instruction can name: the 3-bit field `r8` without index 6, which is the memory operand
(HL) and has rows of its own (R98). -/
inductive Reg8 where
  | b | c | d | e | h | l | a
  deriving DecidableEq, Repr

/-- `r16[p]` (R99): the 16-bit registers of `LD rr,d16`, `INC rr`, `DEC rr`, `ADD HL,rr`. -/
inductive Reg16 where
  | bc | de | hl | sp
  deriving DecidableEq, Repr

/-- `r16stk[p]` (R99): the pairs of `PUSH rr`. -/
inductive StackPair where
  | bc | de | hl | af
  deriving DecidableEq, Repr

/-- The pairs of `POP rr` (R155): `r16stk[p]` for p in 0, 1, 2; `POP AF` is a row of its own (R156). -/
inductive PopPair where
  | bc | de | hl
  deriving DecidableEq, Repr

/-- The branch conditions `cc` (R99, R270). -/
inductive Cond where
  | nz | z | nc | c
  deriving DecidableEq, Repr

/-- One constructor per row of the opcode table. `n` is a d8 or a8 byte, `nn` a d16 or a16 word, `e` the raw byte of
an r8 operand, `t` the RST field, a `Fin 8` before a register the literal bit index. -/
inductive Instr where
  -- 8-bit loads, R120 to R138
  | ldRR (dst src : Reg8)
  | ldRHl (dst : Reg8)
  | ldHlR (s : Reg8)
  | ldRD8 (dst : Reg8) (n : Byte)
  | ldHlD8 (n : Byte)
  | ldABc
  | ldADe
  | ldBcA
  | ldDeA
  | ldHliA
  | ldHldA
  | ldAHli
  | ldAHld
  | ldhA8A (n : Byte)
  | ldhAA8 (n : Byte)
  | ldCA
  | ldAC
  | ldA16A (nn : Word)
  | ldAA16 (nn : Word)
  -- 16-bit loads and stack, R150 to R156
  | ldRrD16 (p : Reg16) (nn : Word)
  | ldA16Sp (nn : Word)
  | ldSpHl
  | ldHlSpR8 (e : Byte)
  | pushRr (p : StackPair)
  | popRr (p : PopPair)
  | popAf
  -- 8-bit arithmetic and logic, R172 to R195
  | addR (s : Reg8)
  | addHl
  | addD8 (n : Byte)
  | adcR (s : Reg8)
  | adcHl
  | adcD8 (n : Byte)
  | subR (s : Reg8)
  | subHl
  | subD8 (n : Byte)
  | sbcR (s : Reg8)
  | sbcHl
  | sbcD8 (n : Byte)
  | andR (s : Reg8)
  | andHl
  | andD8 (n : Byte)
  | xorR (s : Reg8)
  | xorHl
  | xorD8 (n : Byte)
  | orR (s : Reg8)
  | orHl
  | orD8 (n : Byte)
  | cpR (s : Reg8)
  | cpHl
  | cpD8 (n : Byte)
  -- increment, decrement, accumulator and flag instructions, R196 to R203
  | incR (dst : Reg8)
  | incHl
  | decR (dst : Reg8)
  | decHl
  | daa
  | cpl
  | scf
  | ccf
  -- 16-bit arithmetic, R221 to R224
  | incRr (p : Reg16)
  | decRr (p : Reg16)
  | addHlRr (p : Reg16)
  | addSpR8 (e : Byte)
  -- rotates, shifts, SWAP, R231 to R250
  | rlca
  | rrca
  | rla
  | rra
  | rlcR (s : Reg8)
  | rlcHl
  | rrcR (s : Reg8)
  | rrcHl
  | rlR (s : Reg8)
  | rlHl
  | rrR (s : Reg8)
  | rrHl
  | slaR (s : Reg8)
  | slaHl
  | sraR (s : Reg8)
  | sraHl
  | swapR (s : Reg8)
  | swapHl
  | srlR (s : Reg8)
  | srlHl
  -- bit test, reset, set, R251 to R256
  | bitR (b : Fin 8) (s : Reg8)
  | bitHl (b : Fin 8)
  | resR (b : Fin 8) (s : Reg8)
  | resHl (b : Fin 8)
  | setR (b : Fin 8) (s : Reg8)
  | setHl (b : Fin 8)
  -- control flow, R271 to R281
  | jpA16 (nn : Word)
  | jpCc (cc : Cond) (nn : Word)
  | jpHl
  | jrR8 (e : Byte)
  | jrCc (cc : Cond) (e : Byte)
  | callA16 (nn : Word)
  | callCc (cc : Cond) (nn : Word)
  | ret
  | retCc (cc : Cond)
  | reti
  | rst (t : Fin 8)
  -- system, R290 to R296
  | nop
  | stop (n : Byte)
  | halt
  | di
  | ei
  | prefixCb
  | illegal (op : Byte)
  deriving DecidableEq, Repr

end Sys2Proof
end

