-- ==== Sys2Proof/Machine/Operands.lean ====
section
/-! DEFINITION. The operand forms (`30_encoding.md` R97 to R99, `10_state.md` R11, R13): every read and write of a
register, a pair, a flag or PC goes through these. -/

namespace Sys2Proof.Machine

/-! ### 8-bit registers (R98) -/

def Regs.get (g : Regs) (r : Reg8) : Byte :=
  match r with
  | .b => g.b
  | .c => g.c
  | .d => g.d
  | .e => g.e
  | .h => g.h
  | .l => g.l
  | .a => g.a

def Regs.set (g : Regs) (r : Reg8) (v : Byte) : Regs :=
  match r with
  | .b => { g with b := v }
  | .c => { g with c := v }
  | .d => { g with d := v }
  | .e => { g with e := v }
  | .h => { g with h := v }
  | .l => { g with l := v }
  | .a => { g with a := v }

def State.reg (s : State) (r : Reg8) : Byte := s.regs.get r

def State.setReg (s : State) (r : Reg8) (v : Byte) : State := { s with regs := s.regs.set r v }

/-! ### Pairs (R11, R13, R99) -/

def Regs.bc (g : Regs) : Word := word16 g.b g.c
def Regs.de (g : Regs) : Word := word16 g.d g.e
def Regs.hl (g : Regs) : Word := word16 g.h g.l
def Regs.af (g : Regs) : Word := word16 g.a g.f

def Regs.setBc (g : Regs) (v : Word) : Regs := { g with b := hi8 v, c := lo8 v }
def Regs.setDe (g : Regs) (v : Word) : Regs := { g with d := hi8 v, e := lo8 v }
def Regs.setHl (g : Regs) (v : Word) : Regs := { g with h := hi8 v, l := lo8 v }

/-- A write of AF masks the low nibble of F to zero (R13). -/
def Regs.setAf (g : Regs) (v : Word) : Regs := { g with a := hi8 v, f := v.extractLsb' 4 4 ++ 0#4 }

/-- `r16[p]`. -/
def Regs.get16 (g : Regs) (p : Reg16) : Word :=
  match p with
  | .bc => g.bc
  | .de => g.de
  | .hl => g.hl
  | .sp => g.sp

def Regs.set16 (g : Regs) (p : Reg16) (v : Word) : Regs :=
  match p with
  | .bc => g.setBc v
  | .de => g.setDe v
  | .hl => g.setHl v
  | .sp => { g with sp := v }

/-- `r16stk[p]`, read (R154). -/
def Regs.getStack (g : Regs) (p : StackPair) : Word :=
  match p with
  | .bc => g.bc
  | .de => g.de
  | .hl => g.hl
  | .af => g.af

/-- `r16stk[p]` for p in 0, 1, 2, written (R155). -/
def Regs.setPop (g : Regs) (p : PopPair) (v : Word) : Regs :=
  match p with
  | .bc => g.setBc v
  | .de => g.setDe v
  | .hl => g.setHl v

def State.reg16 (s : State) (p : Reg16) : Word := s.regs.get16 p

def State.setReg16 (s : State) (p : Reg16) (v : Word) : State := { s with regs := s.regs.set16 p v }

def State.hl (s : State) : Word := s.regs.hl

def State.setHl (s : State) (v : Word) : State := { s with regs := s.regs.setHl v }

def State.setPop (s : State) (p : PopPair) (v : Word) : State := { s with regs := s.regs.setPop p v }

def State.setAf (s : State) (v : Word) : State := { s with regs := s.regs.setAf v }

/-! ### SP, PC, A, F -/

def State.setSp (s : State) (v : Word) : State := { s with regs := { s.regs with sp := v } }

def State.setPc (s : State) (v : Word) : State := { s with regs := { s.regs with pc := v } }

def State.setA (s : State) (v : Byte) : State := { s with regs := { s.regs with a := v } }

/-- Write the four flags. -/
def State.setFlags (s : State) (z n h c : Bool) : State :=
  { s with regs := { s.regs with f := packFlags s.regs.f z n h c } }

/-! ### Conditions (R270) -/

/-- `cond(cc)`. -/
def State.cond (s : State) (cc : Cond) : Bool :=
  match cc with
  | .nz => !s.fZ
  | .z => s.fZ
  | .nc => !s.fC
  | .c => s.fC

/-! ### The relative target (R274) -/

/-- PC plus the signed offset, PC being past the offset byte. -/
def State.relative (s : State) (e : Byte) : Word := s.regs.pc + signed8 e

end Sys2Proof.Machine
end

