-- ==== Sys2Proof/Machine/Ops.lean ====
section
/-! DEFINITION. The named operations over the bus: raising a fault, the two primitives and the address map
(`20_memory.md`), 16-bit accesses, the stack (`41_load16_stack.md`), interrupt entry and return
(`60_exceptions.md` R316, R280). An Operation is written with what is done after each access as the last argument, so
that a raise abandons the rest. -/

namespace Sys2Proof.Machine

/-! ### Raising a fault (R300) -/

/-- `raise X(info)`: latch the fault and abandon the Step; the state reached so far stands. -/
def raise (s : State) (f : Fault) : Result := .next { s with fault := some f }

/-! ### The address map (R52, R60) -/

/-- The rows of R52. -/
inductive Region where
  | rom | vram | cram | wram | echo | oam | unusable | io | hram | ie
  deriving DecidableEq, Repr

/-- The one row of R52 that holds an address. -/
def regionOf (a : Word) : Region :=
  if a.toNat < 0x8000 then .rom
  else if a.toNat < 0xA000 then .vram
  else if a.toNat < 0xC000 then .cram
  else if a.toNat < 0xE000 then .wram
  else if a.toNat < 0xFE00 then .echo
  else if a.toNat < 0xFEA0 then .oam
  else if a.toNat < 0xFF00 then .unusable
  else if a.toNat < 0xFF80 then .io
  else if a.toNat < 0xFFFF then .hram
  else .ie

/-- The rows of R60. -/
inductive IoReg where
  | div | tima | tma | tac | iflag | stub
  deriving DecidableEq, Repr

/-- The row of R60 that holds an address of the I/O window. -/
def ioRegOf (a : Word) : IoReg :=
  if a = 0xFF04 then .div
  else if a = 0xFF05 then .tima
  else if a = 0xFF06 then .tma
  else if a = 0xFF07 then .tac
  else if a = 0xFF0F then .iflag
  else .stub

/-- The read column of R60. -/
def ioRead (s : State) (a : Word) : Byte :=
  match ioRegOf a with
  | .div => hi8 s.timer.div
  | .tima => s.timer.tima
  | .tma => s.timer.tma
  | .tac => s.timer.tac
  | .iflag => s.intc.iflag
  | .stub => s.stubRead

/-- The write column of R60. -/
def ioWrite (s : State) (a : Word) (v : Byte) : State :=
  match ioRegOf a with
  | .div => { s with timer := { s.timer with div := 0 } }
  | .tima => { s with timer := { s.timer with tima := v } }
  | .tma => { s with timer := { s.timer with tma := v } }
  | .tac => { s with timer := { s.timer with tac := v } }
  | .iflag => { s with intc := { s.intc with iflag := v } }
  | .stub => s

/-- `MemRead(addr, 1)` (R50): the byte, or `none` where the map raises. A read never changes state (R69). -/
def busRead (s : State) (a : Word) : Option Byte :=
  match regionOf a with
  | .rom => some (s.mem.read a.toNat)
  | .vram => some s.stubRead
  | .cram => some (s.mem.read a.toNat)
  | .wram => some (s.mem.read a.toNat)
  | .echo => none
  | .oam => some s.stubRead
  | .unusable => none
  | .io => some (ioRead s a)
  | .hram => some (s.mem.read a.toNat)
  | .ie => some s.intc.ie

/-- `MemWrite(addr, 1, v)` (R51): the state after it, or `none` where the map raises. -/
def busWrite (s : State) (a : Word) (v : Byte) : Option State :=
  match regionOf a with
  | .rom => some s
  | .vram => some s
  | .cram => some { s with mem := s.mem.write a.toNat v }
  | .wram => some { s with mem := s.mem.write a.toNat v }
  | .echo => none
  | .oam => some s
  | .unusable => none
  | .io => some (ioWrite s a v)
  | .hram => some { s with mem := s.mem.write a.toNat v }
  | .ie => some { s with intc := { s.intc with ie := v } }

/-- Read a byte, then go on; `BusAccessError` at a fatal address (R304). -/
def withRead (s : State) (a : Word) (k : Byte → Result) : Result :=
  match busRead s a with
  | some v => k v
  | none => raise s (.busAccessError a .read)

/-- Write a byte, then go on. -/
def withWrite (s : State) (a : Word) (v : Byte) (k : State → Result) : Result :=
  match busWrite s a v with
  | some t => k t
  | none => raise s (.busAccessError a .write)

/-! ### 16-bit accesses (R64, R65): low address first, the second address wrapping -/

/-- `MemRead(addr, 2)`. -/
def withRead16 (s : State) (a : Word) (k : Word → Result) : Result :=
  withRead s a fun lo => withRead s (a + 1) fun hi => k (word16 hi lo)

/-- `MemWrite(addr, 2, v)`. -/
def withWrite16 (s : State) (a : Word) (v : Word) (k : State → Result) : Result :=
  withWrite s a (lo8 v) fun t => withWrite t (a + 1) (hi8 v) k

/-! ### Fetching a byte (R94) -/

/-- `Fetch8()`: PC advances after the read, so a refused fetch leaves it unadvanced. -/
def withFetch8 (s : State) (k : Byte → State → Result) : Result :=
  withRead s s.regs.pc fun b => k b (s.setPc (s.regs.pc + 1))

/-- `Fetch16()` (R95). -/
def withFetch16 (s : State) (k : Word → State → Result) : Result :=
  withFetch8 s fun lo s1 => withFetch8 s1 fun hi s2 => k (word16 hi lo) s2

/-! ### The stack (R157, R158) -/

/-- The address a push stores at: SP − 2. -/
def pushAddress (s : State) : Word := s.regs.sp - 2

/-- `Push16(v)`. -/
def withPush16 (s : State) (v : Word) (k : State → Result) : Result :=
  withWrite16 (s.setSp (pushAddress s)) (pushAddress s) v k

/-- `Pop16()`. -/
def withPop16 (s : State) (k : Word → State → Result) : Result :=
  withRead16 s s.regs.sp fun v => k v (s.setSp (s.regs.sp + 2))

/-! ### Interrupt entry and return -/

/-- The five sources, in priority order (R310). -/
inductive IrqSource where
  | vblank | lcdStat | timer | serial | joypad
  deriving DecidableEq, Repr

/-- The IE and IF bit of a source (R310). -/
def IrqSource.bit (i : IrqSource) : Nat :=
  match i with
  | .vblank => 0
  | .lcdStat => 1
  | .timer => 2
  | .serial => 3
  | .joypad => 4

/-- `vector(i) = 0x0040 + 8*i` (R310). -/
def IrqSource.vector (i : IrqSource) : Word := BitVec.ofNat 16 (0x0040 + 8 * i.bit)

/-- `IF[i] <- 0`, only bit i. -/
def clearRequest (flags : Byte) (i : IrqSource) : Byte := flags &&& ~~~(1#8 <<< i.bit)

/-- What dispatch does after its push (R316). IF is the one the push left (log 22). -/
def enterVector (s : State) (i : IrqSource) : State :=
  { s with
    regs := { s.regs with pc := i.vector }
    intc := { s.intc with iflag := clearRequest s.intc.iflag i, ime := false }
    halted := false }

/-- `Dispatch(i)` (R316): TAKING AN INTERRUPT. PC is pushed, IF[i] and IME are cleared, PC goes to the vector and the
halted state ends; DISPATCH_TICKS is 0 (D12). If the push raises, only SP (and a byte already written) has changed. -/
def dispatch (i : IrqSource) (s : State) : Result :=
  withPush16 s s.regs.pc fun t => .next (enterVector t i)

/-- What `RETI` does with the popped address (R280): PC, IME at once, both countdowns cleared. -/
def returnFromInterrupt (s : State) (v : Word) : State :=
  { s with
    regs := { s.regs with pc := v }
    intc := { s.intc with ime := true, pe := .idle, pd := .idle } }

end Sys2Proof.Machine
end

