-- ==== Sys2Proof/Machine/Alu16.lean ====
section
/-! DEFINITION. The 16-bit arithmetic instructions (`43_alu16.md`, R221 to R224). -/

namespace Sys2Proof.Machine

/-- `INC rr` (R221): no flag. -/
def execIncRr (p : Reg16) (s : State) : Result := .next (s.setReg16 p (s.reg16 p + 1))

/-- `DEC rr` (R222): no flag. -/
def execDecRr (p : Reg16) (s : State) : Result := .next (s.setReg16 p (s.reg16 p - 1))

/-- `ADD HL,rr` (R223): Z kept. -/
def execAddHlRr (p : Reg16) (s : State) : Result :=
  let r := add16 s.hl (s.reg16 p)
  .next ((s.setHl r.res).setFlags s.fZ false r.h r.c)

/-- `ADD SP,r8` (R224): Z and N cleared, H and C from the low byte (R220). -/
def execAddSpR8 (e : Byte) (s : State) : Result :=
  let r := addSp s.regs.sp e
  .next ((s.setSp r.res).setFlags false false r.h r.c)

end Sys2Proof.Machine
end

