-- ==== Sys2Proof/Machine/Alu8.lean ====
section
/-! DEFINITION. The 8-bit arithmetic and logical instructions (`42_alu8.md`, R172 to R203). -/

namespace Sys2Proof.Machine

/-! ### The accumulator group: one shared operation, three operand forms -/

/-- `alu[k] A,v`: A and the four flags. -/
def accumulate (k : AluOp) (v : Byte) (s : State) : State :=
  let r := alu k s.regs.a v s.fC
  (s.setA r.a).setFlags r.z r.n r.h r.c

/-- The form `A,r` and the form `A,d8`: the operand is at hand. -/
def aluValue (k : AluOp) (v : Byte) (s : State) : Result := .next (accumulate k v s)

/-- The form `A,(HL)`: a refused read leaves A and F as they were. -/
def aluAtHl (k : AluOp) (s : State) : Result := withRead s s.hl fun v => aluValue k v s

/-- `ADD A,r` (R172). -/
def execAddR (r : Reg8) (s : State) : Result := aluValue .add (s.reg r) s

/-- `ADD A,(HL)` (R173). -/
def execAddHl (s : State) : Result := aluAtHl .add s

/-- `ADD A,d8` (R174). -/
def execAddD8 (n : Byte) (s : State) : Result := aluValue .add n s

/-- `ADC A,r` (R175). -/
def execAdcR (r : Reg8) (s : State) : Result := aluValue .adc (s.reg r) s

/-- `ADC A,(HL)` (R176). -/
def execAdcHl (s : State) : Result := aluAtHl .adc s

/-- `ADC A,d8` (R177). -/
def execAdcD8 (n : Byte) (s : State) : Result := aluValue .adc n s

/-- `SUB A,r` (R178). -/
def execSubR (r : Reg8) (s : State) : Result := aluValue .sub (s.reg r) s

/-- `SUB A,(HL)` (R179). -/
def execSubHl (s : State) : Result := aluAtHl .sub s

/-- `SUB A,d8` (R180). -/
def execSubD8 (n : Byte) (s : State) : Result := aluValue .sub n s

/-- `SBC A,r` (R181). -/
def execSbcR (r : Reg8) (s : State) : Result := aluValue .sbc (s.reg r) s

/-- `SBC A,(HL)` (R182). -/
def execSbcHl (s : State) : Result := aluAtHl .sbc s

/-- `SBC A,d8` (R183). -/
def execSbcD8 (n : Byte) (s : State) : Result := aluValue .sbc n s

/-- `AND A,r` (R184). -/
def execAndR (r : Reg8) (s : State) : Result := aluValue .and (s.reg r) s

/-- `AND A,(HL)` (R185). -/
def execAndHl (s : State) : Result := aluAtHl .and s

/-- `AND A,d8` (R186). -/
def execAndD8 (n : Byte) (s : State) : Result := aluValue .and n s

/-- `XOR A,r` (R187). -/
def execXorR (r : Reg8) (s : State) : Result := aluValue .xor (s.reg r) s

/-- `XOR A,(HL)` (R188). -/
def execXorHl (s : State) : Result := aluAtHl .xor s

/-- `XOR A,d8` (R189). -/
def execXorD8 (n : Byte) (s : State) : Result := aluValue .xor n s

/-- `OR A,r` (R190). -/
def execOrR (r : Reg8) (s : State) : Result := aluValue .or (s.reg r) s

/-- `OR A,(HL)` (R191). -/
def execOrHl (s : State) : Result := aluAtHl .or s

/-- `OR A,d8` (R192). -/
def execOrD8 (n : Byte) (s : State) : Result := aluValue .or n s

/-- `CP A,r` (R193). -/
def execCpR (r : Reg8) (s : State) : Result := aluValue .cp (s.reg r) s

/-- `CP A,(HL)` (R194). -/
def execCpHl (s : State) : Result := aluAtHl .cp s

/-- `CP A,d8` (R195). -/
def execCpD8 (n : Byte) (s : State) : Result := aluValue .cp n s

/-! ### Increment and decrement; C is not written -/

/-- The flags of an increment of `v`. -/
def incFlags (v : Byte) (s : State) : State := s.setFlags (v + 1 == 0) false (incHalf v) s.fC

/-- The flags of a decrement of `v`. -/
def decFlags (v : Byte) (s : State) : State := s.setFlags (v - 1 == 0) true (decHalf v) s.fC

/-- `INC r` (R196). -/
def execIncR (r : Reg8) (s : State) : Result :=
  .next (incFlags (s.reg r) (s.setReg r (s.reg r + 1)))

/-- `INC (HL)` (R197). -/
def execIncHl (s : State) : Result :=
  withRead s s.hl fun v => withWrite s s.hl (v + 1) fun t => .next (incFlags v t)

/-- `DEC r` (R198). -/
def execDecR (r : Reg8) (s : State) : Result :=
  .next (decFlags (s.reg r) (s.setReg r (s.reg r - 1)))

/-- `DEC (HL)` (R199). -/
def execDecHl (s : State) : Result :=
  withRead s s.hl fun v => withWrite s s.hl (v - 1) fun t => .next (decFlags v t)

/-! ### Accumulator adjust and flags -/

/-- `DAA` (R200). -/
def execDaa (s : State) : Result :=
  let res := daaResult s.regs.a s.fN s.fH s.fC
  .next ((s.setA res).setFlags (res == 0) s.fN false (daaCarry s.regs.a s.fN s.fC))

/-- `CPL` (R201). -/
def execCpl (s : State) : Result := .next ((s.setA (~~~s.regs.a)).setFlags s.fZ true true s.fC)

/-- `SCF` (R202). -/
def execScf (s : State) : Result := .next (s.setFlags s.fZ false false true)

/-- `CCF` (R203). -/
def execCcf (s : State) : Result := .next (s.setFlags s.fZ false false (!s.fC))

end Sys2Proof.Machine
end

