-- ==== Sys2Proof/Machine/Control.lean ====
section
/-! DEFINITION. The control-flow instructions (`45_control_flow.md`, R271 to R281). PC in the state they start from is
the post-fetch PC (R15). -/

namespace Sys2Proof.Machine

/-- `Push16(PC); PC <- target`. -/
def callTo (target : Word) (s : State) : Result := withPush16 s s.regs.pc fun t => .next (t.setPc target)

/-- `PC <- Pop16()`. -/
def popPc (s : State) : Result := withPop16 s fun v t => .next (t.setPc v)

/-- `JP a16` (R271). -/
def execJpA16 (nn : Word) (s : State) : Result := .next (s.setPc nn)

/-- `JP cc,a16` (R272). -/
def execJpCc (cc : Cond) (nn : Word) (s : State) : Result :=
  if s.cond cc then .next (s.setPc nn) else .next s

/-- `JP HL` (R273): no memory read. -/
def execJpHl (s : State) : Result := .next (s.setPc s.hl)

/-- `JR r8` (R274). -/
def execJrR8 (e : Byte) (s : State) : Result := .next (s.setPc (s.relative e))

/-- `JR cc,r8` (R275). -/
def execJrCc (cc : Cond) (e : Byte) (s : State) : Result :=
  if s.cond cc then .next (s.setPc (s.relative e)) else .next s

/-- `CALL a16` (R276). -/
def execCallA16 (nn : Word) (s : State) : Result := callTo nn s

/-- `CALL cc,a16` (R277): not taken touches neither SP nor the stack. -/
def execCallCc (cc : Cond) (nn : Word) (s : State) : Result :=
  if s.cond cc then callTo nn s else .next s

/-- `RET` (R278). -/
def execRet (s : State) : Result := popPc s

/-- `RET cc` (R279). -/
def execRetCc (cc : Cond) (s : State) : Result := if s.cond cc then popPc s else .next s

/-- `RETI` (R280). -/
def execReti (s : State) : Result := withPop16 s fun v t => .next (returnFromInterrupt t v)

/-- `RST n` (R281): the target is t * 8. -/
def execRst (t : Fin 8) (s : State) : Result := callTo (BitVec.ofNat 16 (8 * t.val)) s

end Sys2Proof.Machine
end

