-- ==== Sys2Proof/Machine/Load16.lean ====
section
/-! DEFINITION. The 16-bit loads and the stack instructions (`41_load16_stack.md`, R150 to R156). -/

namespace Sys2Proof.Machine

/-- `LD rr,d16` (R150). -/
def execLdRrD16 (p : Reg16) (nn : Word) (s : State) : Result := .next (s.setReg16 p nn)

/-- `LD (a16),SP` (R151). -/
def execLdA16Sp (nn : Word) (s : State) : Result := withWrite16 s nn s.regs.sp .next

/-- `LD SP,HL` (R152). -/
def execLdSpHl (s : State) : Result := .next (s.setSp s.hl)

/-- `LD HL,SP+r8` (R153): Z and N cleared, H and C from the low byte (R220). -/
def execLdHlSpR8 (e : Byte) (s : State) : Result :=
  let r := addSp s.regs.sp e
  .next ((s.setHl r.res).setFlags false false r.h r.c)

/-- `PUSH rr` (R154). -/
def execPushRr (p : StackPair) (s : State) : Result := withPush16 s (s.regs.getStack p) .next

/-- `POP rr` for BC, DE, HL (R155). -/
def execPopRr (p : PopPair) (s : State) : Result := withPop16 s fun v t => .next (t.setPop p v)

/-- `POP AF` (R156): F[3:0] is dropped (R13). -/
def execPopAf (s : State) : Result := withPop16 s fun v t => .next (t.setAf v)

end Sys2Proof.Machine
end

