-- ==== Sys2Proof/Machine/Load8.lean ====
section
/-! DEFINITION. The 8-bit loads (`40_load8.md`, R120 to R138). -/

namespace Sys2Proof.Machine

/-- `LD r,r'` (R120). -/
def execLdRR (dst src : Reg8) (s : State) : Result := .next (s.setReg dst (s.reg src))

/-- `LD r,(HL)` (R121). -/
def execLdRHl (dst : Reg8) (s : State) : Result := withRead s s.hl fun v => .next (s.setReg dst v)

/-- `LD (HL),r` (R122). -/
def execLdHlR (r : Reg8) (s : State) : Result := withWrite s s.hl (s.reg r) .next

/-- `LD r,d8` (R123). -/
def execLdRD8 (dst : Reg8) (n : Byte) (s : State) : Result := .next (s.setReg dst n)

/-- `LD (HL),d8` (R124). -/
def execLdHlD8 (n : Byte) (s : State) : Result := withWrite s s.hl n .next

/-- `A <- MemRead(addr, 1)`. -/
def loadA (a : Word) (s : State) : Result := withRead s a fun v => .next (s.setA v)

/-- `MemWrite(addr, 1, A)`. -/
def storeA (a : Word) (s : State) : Result := withWrite s a s.regs.a .next

/-- `LD A,(BC)` (R125). -/
def execLdABc (s : State) : Result := loadA s.regs.bc s

/-- `LD A,(DE)` (R126). -/
def execLdADe (s : State) : Result := loadA s.regs.de s

/-- `LD (BC),A` (R127). -/
def execLdBcA (s : State) : Result := storeA s.regs.bc s

/-- `LD (DE),A` (R128). -/
def execLdDeA (s : State) : Result := storeA s.regs.de s

/-- `LD (HL+),A` (R129): the store uses the old HL, which then goes up by one. -/
def execLdHliA (s : State) : Result :=
  withWrite s s.hl s.regs.a fun t => .next (t.setHl (t.hl + 1))

/-- `LD (HL-),A` (R130). -/
def execLdHldA (s : State) : Result :=
  withWrite s s.hl s.regs.a fun t => .next (t.setHl (t.hl - 1))

/-- `LD A,(HL+)` (R131). -/
def execLdAHli (s : State) : Result :=
  withRead s s.hl fun v => .next ((s.setA v).setHl (s.hl + 1))

/-- `LD A,(HL-)` (R132). -/
def execLdAHld (s : State) : Result :=
  withRead s s.hl fun v => .next ((s.setA v).setHl (s.hl - 1))

/-- `LDH (a8),A` (R133). -/
def execLdhA8A (n : Byte) (s : State) : Result := storeA (ioPage n) s

/-- `LDH A,(a8)` (R134). -/
def execLdhAA8 (n : Byte) (s : State) : Result := loadA (ioPage n) s

/-- `LD (C),A` (R135, D25). -/
def execLdCA (s : State) : Result := storeA (ioPage s.regs.c) s

/-- `LD A,(C)` (R136, D25). -/
def execLdAC (s : State) : Result := loadA (ioPage s.regs.c) s

/-- `LD (a16),A` (R137). -/
def execLdA16A (nn : Word) (s : State) : Result := storeA nn s

/-- `LD A,(a16)` (R138). -/
def execLdAA16 (nn : Word) (s : State) : Result := loadA nn s

end Sys2Proof.Machine
end

