-- ==== Sys2Proof/WellFormed.lean ====
section
/-! DEFINITION. Which terms of `Instr` stand for an encoding of the table. The operand types leave one check: the
byte of an ILLEGAL row. -/

namespace Sys2Proof

/-- The eleven primary opcodes with no instruction (`30_encoding.md` R102, `46_system.md` R296). -/
def illegalOpcodes : List Byte :=
  [0xD3, 0xDB, 0xDD, 0xE3, 0xE4, 0xEB, 0xEC, 0xED, 0xF4, 0xFC, 0xFD]

/-- A term is well formed when it is not `illegal op` for a byte outside the eleven of R102; every other operand is
legal by its type (R98, R99, R97). -/
def Instr.wellFormed (i : Instr) : Bool :=
  match i with
  | .illegal op => decide (op ∈ illegalOpcodes)
  | _ => true

end Sys2Proof
end

