-- ==== Sys2Proof/Decode.lean ====
section
/-! DEFINITION. The decoder, total on any bytes, and the encoder, both from the field tables of `30_encoding.md`
(R91, R98 to R103); the tests hold them against the opcode lists R106 and R107. -/

namespace Sys2Proof

open Sys2Proof.Machine (word16 hi8 lo8)

/-! ### The fields of an opcode byte (R91) -/

def fieldX (op : Byte) : Nat := (op.extractLsb' 6 2).toNat
def fieldY (op : Byte) : Nat := (op.extractLsb' 3 3).toNat
def fieldZ (op : Byte) : Nat := (op.extractLsb' 0 3).toNat
def fieldP (op : Byte) : Nat := (op.extractLsb' 4 2).toNat
def fieldQ (op : Byte) : Nat := (op.extractLsb' 3 1).toNat

/-- The field `y` as a literal: the bit index of BIT, RES, SET or the RST target index (R97, "LiteralByte"). -/
def literalY (op : Byte) : Fin 8 := (op.extractLsb' 3 3).toFin

/-- An entry of the 3-bit register field: a register, or index 6, the memory byte at HL (R98). -/
inductive Operand8 where
  | reg (r : Reg8)
  | atHl
  deriving DecidableEq, Repr

/-- `r8[i]` (R98). -/
def operand8 : Nat → Operand8
  | 0 => .reg .b
  | 1 => .reg .c
  | 2 => .reg .d
  | 3 => .reg .e
  | 4 => .reg .h
  | 5 => .reg .l
  | 6 => .atHl
  | _ => .reg .a

/-- `r16[p]` (R99). -/
def reg16 : Nat → Reg16
  | 0 => .bc
  | 1 => .de
  | 2 => .hl
  | _ => .sp

/-- `r16stk[p]` (R99). -/
def stackPair : Nat → StackPair
  | 0 => .bc
  | 1 => .de
  | 2 => .hl
  | _ => .af

/-- `cc` (R99, R270). -/
def condition : Nat → Cond
  | 0 => .nz
  | 1 => .z
  | 2 => .nc
  | _ => .c

/-! ### The two tables -/

/-- What a primary opcode byte calls for: an instruction with no more bytes, one that fetches a byte, one that
fetches a little-endian word, the escape to the secondary table (R103), or no entry (R92: the default arm of a
decoder, never merged with the illegal opcodes). -/
inductive Entry where
  | op0 (i : Instr)
  | op8 (k : Byte → Instr)
  | op16 (k : Word → Instr)
  | escape
  | unknown

/-- `alu[y] A,r8[z]` (R99, R100 x = 2). -/
def aluInstr (y : Nat) (o : Operand8) : Instr :=
  match y, o with
  | 0, .reg s => .addR s
  | 0, .atHl => .addHl
  | 1, .reg s => .adcR s
  | 1, .atHl => .adcHl
  | 2, .reg s => .subR s
  | 2, .atHl => .subHl
  | 3, .reg s => .sbcR s
  | 3, .atHl => .sbcHl
  | 4, .reg s => .andR s
  | 4, .atHl => .andHl
  | 5, .reg s => .xorR s
  | 5, .atHl => .xorHl
  | 6, .reg s => .orR s
  | 6, .atHl => .orHl
  | _, .reg s => .cpR s
  | _, .atHl => .cpHl

/-- `alu[y] A,d8` (R100 x = 3, z = 6). -/
def aluImmediate (y : Nat) (n : Byte) : Instr :=
  match y with
  | 0 => .addD8 n
  | 1 => .adcD8 n
  | 2 => .subD8 n
  | 3 => .sbcD8 n
  | 4 => .andD8 n
  | 5 => .xorD8 n
  | 6 => .orD8 n
  | _ => .cpD8 n

/-- R100, x = 0. -/
def primaryBlock0 (y z p q : Nat) : Entry :=
  match z with
  | 0 =>
    match y with
    | 0 => .op0 .nop
    | 1 => .op16 .ldA16Sp
    | 2 => .op8 .stop
    | 3 => .op8 .jrR8
    | k + 4 => .op8 (.jrCc (condition k))
  | 1 =>
    match q with
    | 0 => .op16 (.ldRrD16 (reg16 p))
    | _ => .op0 (.addHlRr (reg16 p))
  | 2 =>
    match q, p with
    | 0, 0 => .op0 .ldBcA
    | 0, 1 => .op0 .ldDeA
    | 0, 2 => .op0 .ldHliA
    | 0, _ => .op0 .ldHldA
    | _, 0 => .op0 .ldABc
    | _, 1 => .op0 .ldADe
    | _, 2 => .op0 .ldAHli
    | _, _ => .op0 .ldAHld
  | 3 =>
    match q with
    | 0 => .op0 (.incRr (reg16 p))
    | _ => .op0 (.decRr (reg16 p))
  | 4 =>
    match operand8 y with
    | .reg dst => .op0 (.incR dst)
    | .atHl => .op0 .incHl
  | 5 =>
    match operand8 y with
    | .reg dst => .op0 (.decR dst)
    | .atHl => .op0 .decHl
  | 6 =>
    match operand8 y with
    | .reg dst => .op8 (.ldRD8 dst)
    | .atHl => .op8 .ldHlD8
  | 7 =>
    match y with
    | 0 => .op0 .rlca
    | 1 => .op0 .rrca
    | 2 => .op0 .rla
    | 3 => .op0 .rra
    | 4 => .op0 .daa
    | 5 => .op0 .cpl
    | 6 => .op0 .scf
    | _ => .op0 .ccf
  | _ => .unknown

/-- R100, x = 1: `LD r8[y],r8[z]`, with HALT in the slot y = z = 6. -/
def primaryBlock1 (y z : Nat) : Entry :=
  match operand8 y, operand8 z with
  | .reg dst, .reg src => .op0 (.ldRR dst src)
  | .reg dst, .atHl => .op0 (.ldRHl dst)
  | .atHl, .reg s => .op0 (.ldHlR s)
  | .atHl, .atHl => .op0 .halt

/-- R100, x = 3. -/
def primaryBlock3 (op : Byte) (y z p q : Nat) : Entry :=
  match z with
  | 0 =>
    match y with
    | 4 => .op8 .ldhA8A
    | 5 => .op8 .addSpR8
    | 6 => .op8 .ldhAA8
    | 7 => .op8 .ldHlSpR8
    | k => .op0 (.retCc (condition k))
  | 1 =>
    match q, p with
    | 0, 0 => .op0 (.popRr .bc)
    | 0, 1 => .op0 (.popRr .de)
    | 0, 2 => .op0 (.popRr .hl)
    | 0, _ => .op0 .popAf
    | _, 0 => .op0 .ret
    | _, 1 => .op0 .reti
    | _, 2 => .op0 .jpHl
    | _, _ => .op0 .ldSpHl
  | 2 =>
    match y with
    | 4 => .op0 .ldCA
    | 5 => .op16 .ldA16A
    | 6 => .op0 .ldAC
    | 7 => .op16 .ldAA16
    | k => .op16 (.jpCc (condition k))
  | 3 =>
    match y with
    | 0 => .op16 .jpA16
    | 1 => .escape
    | 6 => .op0 .di
    | 7 => .op0 .ei
    | _ => .op0 (.illegal op)
  | 4 =>
    match y with
    | 0 => .op16 (.callCc .nz)
    | 1 => .op16 (.callCc .z)
    | 2 => .op16 (.callCc .nc)
    | 3 => .op16 (.callCc .c)
    | _ => .op0 (.illegal op)
  | 5 =>
    match q, p with
    | 0, _ => .op0 (.pushRr (stackPair p))
    | _, 0 => .op16 .callA16
    | _, _ => .op0 (.illegal op)
  | 6 => .op8 (aluImmediate y)
  | 7 => .op0 (.rst (literalY op))
  | _ => .unknown

/-- The primary opcode map (R100, R102). -/
def primaryTable (op : Byte) : Entry :=
  match fieldX op with
  | 0 => primaryBlock0 (fieldY op) (fieldZ op) (fieldP op) (fieldQ op)
  | 1 => primaryBlock1 (fieldY op) (fieldZ op)
  | 2 => .op0 (aluInstr (fieldY op) (operand8 (fieldZ op)))
  | 3 => primaryBlock3 op (fieldY op) (fieldZ op) (fieldP op) (fieldQ op)
  | _ => .unknown

/-- `rot[y] r8[z]` (R99, R101 x = 0). -/
def rotInstr (y : Nat) (o : Operand8) : Instr :=
  match y, o with
  | 0, .reg s => .rlcR s
  | 0, .atHl => .rlcHl
  | 1, .reg s => .rrcR s
  | 1, .atHl => .rrcHl
  | 2, .reg s => .rlR s
  | 2, .atHl => .rlHl
  | 3, .reg s => .rrR s
  | 3, .atHl => .rrHl
  | 4, .reg s => .slaR s
  | 4, .atHl => .slaHl
  | 5, .reg s => .sraR s
  | 5, .atHl => .sraHl
  | 6, .reg s => .swapR s
  | 6, .atHl => .swapHl
  | _, .reg s => .srlR s
  | _, .atHl => .srlHl

/-- The secondary opcode map (R101): every one of the 256 second bytes is an instruction (R103). -/
def secondaryTable (op2 : Byte) : Instr :=
  match fieldX op2, operand8 (fieldZ op2) with
  | 0, o => rotInstr (fieldY op2) o
  | 1, .reg s => .bitR (literalY op2) s
  | 1, .atHl => .bitHl (literalY op2)
  | 2, .reg s => .resR (literalY op2) s
  | 2, .atHl => .resHl (literalY op2)
  | _, .reg s => .setR (literalY op2) s
  | _, .atHl => .setHl (literalY op2)

/-! ### Decoding a list of bytes -/

/-- Why no instruction is read from a list of bytes. -/
inductive Reject where
  /-- There is no byte. -/
  | noByte
  /-- The opcode's operand bytes are missing. -/
  | operandMissing (op : Byte)
  /-- No table has an entry for the opcode (R92, R301; unreachable, the tables are total). -/
  | unknownOpcode (op : Byte)
  deriving DecidableEq, Repr

/-- The answer of the decoder. -/
inductive Decoded where
  | instr (i : Instr) (rest : List Byte)
  | reject (r : Reject)
  deriving DecidableEq, Repr

/-- `Decode` on the bytes of the instruction stream, lowest address first (R90, R92, R95, R103). The lone byte 0xCB
is the row PREFIX CB, whose second byte is still to be fetched (R295, log 9); with a second byte it is the
instruction of the secondary table. -/
def decode (bytes : List Byte) : Decoded :=
  match bytes with
  | [] => .reject .noByte
  | op :: rest =>
    match primaryTable op with
    | .op0 i => .instr i rest
    | .op8 k =>
      match rest with
      | n :: rest' => .instr (k n) rest'
      | [] => .reject (.operandMissing op)
    | .op16 k =>
      match rest with
      | lo :: hi :: rest' => .instr (k (word16 hi lo)) rest'
      | _ => .reject (.operandMissing op)
    | .escape =>
      match rest with
      | op2 :: rest' => .instr (secondaryTable op2) rest'
      | [] => .instr .prefixCb []
    | .unknown => .reject (.unknownOpcode op)

/-! ### The host's view of the decoder -/

/-- The first `k` bytes of a number whose bit 0 is the least significant bit of the first byte. -/
def bytesOf (k w : Nat) : List Byte :=
  match k with
  | 0 => []
  | k + 1 => BitVec.ofNat 8 w :: bytesOf k (w / 256)

/-- The instruction of a table row's `nbits` bits `w`: the row's own bytes, and, where they end before the
instruction does, operand bytes of zero after them. -/
def decodeTableWord (nbits w : Nat) : Option Instr :=
  let own := bytesOf ((nbits + 7) / 8) (w % 2 ^ nbits)
  match decode own with
  | .instr i _ => some i
  | .reject _ =>
    match decode (own ++ [0, 0, 0]) with
    | .instr i _ => some i
    | .reject _ => none

/-! ### The encoder, from the Encoding lines of the instruction rules -/

/-- Index of a register in the 3-bit field (R98). -/
def Reg8.code : Reg8 → BitVec 3
  | .b => 0
  | .c => 1
  | .d => 2
  | .e => 3
  | .h => 4
  | .l => 5
  | .a => 7

/-- Index in `r16` (R99). -/
def Reg16.code : Reg16 → BitVec 2
  | .bc => 0
  | .de => 1
  | .hl => 2
  | .sp => 3

/-- Index in `r16stk` (R99). -/
def StackPair.code : StackPair → BitVec 2
  | .bc => 0
  | .de => 1
  | .hl => 2
  | .af => 3

/-- Index in `r16stk` (R99, R155). -/
def PopPair.code : PopPair → BitVec 2
  | .bc => 0
  | .de => 1
  | .hl => 2

/-- Index of a condition (R99). -/
def Cond.code : Cond → BitVec 2
  | .nz => 0
  | .z => 1
  | .nc => 2
  | .c => 3

/-- A byte of the fields `x`, `y`, `z` (R91). -/
def byteXYZ (x : BitVec 2) (y z : BitVec 3) : Byte := x ++ y ++ z

/-- A byte `xxppllll`. -/
def byteXP (x p : BitVec 2) (low : BitVec 4) : Byte := x ++ p ++ low

/-- A byte `hhhcclll`. -/
def byteCc (high : BitVec 3) (cc : BitVec 2) (low : BitVec 3) : Byte := high ++ cc ++ low

/-- The bytes of a secondary instruction: 0xCB, then the second byte (R103). -/
def cbBytes (x : BitVec 2) (y z : BitVec 3) : List Byte := [0xCB, byteXYZ x y z]

/-- The code of the operand (HL) in the 3-bit register field (R98). -/
def codeAtHl : BitVec 3 := 6

/-- A literal in the field `y`. -/
def literalCode (b : Fin 8) : BitVec 3 := BitVec.ofFin b

/-- The bytes of an instruction, lowest address first (R106, R107, and the Encoding line of its rule). -/
def encode (i : Instr) : List Byte :=
  match i with
  | .ldRR dst src => [byteXYZ 0b01 dst.code src.code]
  | .ldRHl dst => [byteXYZ 0b01 dst.code codeAtHl]
  | .ldHlR s => [byteXYZ 0b01 codeAtHl s.code]
  | .ldRD8 dst n => [byteXYZ 0b00 dst.code 0b110, n]
  | .ldHlD8 n => [0x36, n]
  | .ldABc => [0x0A]
  | .ldADe => [0x1A]
  | .ldBcA => [0x02]
  | .ldDeA => [0x12]
  | .ldHliA => [0x22]
  | .ldHldA => [0x32]
  | .ldAHli => [0x2A]
  | .ldAHld => [0x3A]
  | .ldhA8A n => [0xE0, n]
  | .ldhAA8 n => [0xF0, n]
  | .ldCA => [0xE2]
  | .ldAC => [0xF2]
  | .ldA16A nn => [0xEA, lo8 nn, hi8 nn]
  | .ldAA16 nn => [0xFA, lo8 nn, hi8 nn]
  | .ldRrD16 p nn => [byteXP 0b00 p.code 0b0001, lo8 nn, hi8 nn]
  | .ldA16Sp nn => [0x08, lo8 nn, hi8 nn]
  | .ldSpHl => [0xF9]
  | .ldHlSpR8 e => [0xF8, e]
  | .pushRr p => [byteXP 0b11 p.code 0b0101]
  | .popRr p => [byteXP 0b11 p.code 0b0001]
  | .popAf => [0xF1]
  | .addR s => [byteXYZ 0b10 0b000 s.code]
  | .addHl => [0x86]
  | .addD8 n => [0xC6, n]
  | .adcR s => [byteXYZ 0b10 0b001 s.code]
  | .adcHl => [0x8E]
  | .adcD8 n => [0xCE, n]
  | .subR s => [byteXYZ 0b10 0b010 s.code]
  | .subHl => [0x96]
  | .subD8 n => [0xD6, n]
  | .sbcR s => [byteXYZ 0b10 0b011 s.code]
  | .sbcHl => [0x9E]
  | .sbcD8 n => [0xDE, n]
  | .andR s => [byteXYZ 0b10 0b100 s.code]
  | .andHl => [0xA6]
  | .andD8 n => [0xE6, n]
  | .xorR s => [byteXYZ 0b10 0b101 s.code]
  | .xorHl => [0xAE]
  | .xorD8 n => [0xEE, n]
  | .orR s => [byteXYZ 0b10 0b110 s.code]
  | .orHl => [0xB6]
  | .orD8 n => [0xF6, n]
  | .cpR s => [byteXYZ 0b10 0b111 s.code]
  | .cpHl => [0xBE]
  | .cpD8 n => [0xFE, n]
  | .incR dst => [byteXYZ 0b00 dst.code 0b100]
  | .incHl => [0x34]
  | .decR dst => [byteXYZ 0b00 dst.code 0b101]
  | .decHl => [0x35]
  | .daa => [0x27]
  | .cpl => [0x2F]
  | .scf => [0x37]
  | .ccf => [0x3F]
  | .incRr p => [byteXP 0b00 p.code 0b0011]
  | .decRr p => [byteXP 0b00 p.code 0b1011]
  | .addHlRr p => [byteXP 0b00 p.code 0b1001]
  | .addSpR8 e => [0xE8, e]
  | .rlca => [0x07]
  | .rrca => [0x0F]
  | .rla => [0x17]
  | .rra => [0x1F]
  | .rlcR s => cbBytes 0b00 0b000 s.code
  | .rlcHl => [0xCB, 0x06]
  | .rrcR s => cbBytes 0b00 0b001 s.code
  | .rrcHl => [0xCB, 0x0E]
  | .rlR s => cbBytes 0b00 0b010 s.code
  | .rlHl => [0xCB, 0x16]
  | .rrR s => cbBytes 0b00 0b011 s.code
  | .rrHl => [0xCB, 0x1E]
  | .slaR s => cbBytes 0b00 0b100 s.code
  | .slaHl => [0xCB, 0x26]
  | .sraR s => cbBytes 0b00 0b101 s.code
  | .sraHl => [0xCB, 0x2E]
  | .swapR s => cbBytes 0b00 0b110 s.code
  | .swapHl => [0xCB, 0x36]
  | .srlR s => cbBytes 0b00 0b111 s.code
  | .srlHl => [0xCB, 0x3E]
  | .bitR b s => cbBytes 0b01 (literalCode b) s.code
  | .bitHl b => cbBytes 0b01 (literalCode b) codeAtHl
  | .resR b s => cbBytes 0b10 (literalCode b) s.code
  | .resHl b => cbBytes 0b10 (literalCode b) codeAtHl
  | .setR b s => cbBytes 0b11 (literalCode b) s.code
  | .setHl b => cbBytes 0b11 (literalCode b) codeAtHl
  | .jpA16 nn => [0xC3, lo8 nn, hi8 nn]
  | .jpCc cc nn => [byteCc 0b110 cc.code 0b010, lo8 nn, hi8 nn]
  | .jpHl => [0xE9]
  | .jrR8 e => [0x18, e]
  | .jrCc cc e => [byteCc 0b001 cc.code 0b000, e]
  | .callA16 nn => [0xCD, lo8 nn, hi8 nn]
  | .callCc cc nn => [byteCc 0b110 cc.code 0b100, lo8 nn, hi8 nn]
  | .ret => [0xC9]
  | .retCc cc => [byteCc 0b110 cc.code 0b000]
  | .reti => [0xD9]
  | .rst t => [byteXYZ 0b11 (literalCode t) 0b111]
  | .nop => [0x00]
  | .stop n => [0x10, n]
  | .halt => [0x76]
  | .di => [0xF3]
  | .ei => [0xFB]
  | .prefixCb => [0xCB]
  | .illegal op => [op]

end Sys2Proof
end

