-- ==== Sys2Proof/Machine/RotateBit.lean ====
section
/-! DEFINITION. Rotates, shifts, SWAP and the bit instructions (`44_rotate_shift_bit.md`, R231 to R256), and the
escape byte that selects them (`46_system.md` R295). -/

namespace Sys2Proof.Machine

/-! ### Shared operations -/

/-- An accumulator rotate: Z forced to 0 (R230). -/
def rotAccumulator (k : RotOp) (s : State) : Result :=
  .next ((s.setA (rotResult k s.regs.a s.fC)).setFlags false false false (rotCarry k s.regs.a))

/-- The flags of a CB rotate of `v` with the old carry `cin`: Z from the result, N and H cleared (R230). -/
def rotFlags (k : RotOp) (v : Byte) (cin : Bool) (s : State) : State :=
  s.setFlags (rotResult k v cin == 0) false false (rotCarry k v)

/-- A CB rotate of a register. -/
def rotReg (k : RotOp) (r : Reg8) (s : State) : Result :=
  .next (rotFlags k (s.reg r) s.fC (s.setReg r (rotResult k (s.reg r) s.fC)))

/-- A CB rotate of the byte at HL. -/
def rotAtHl (k : RotOp) (s : State) : Result :=
  withRead s s.hl fun v =>
    withWrite s s.hl (rotResult k v s.fC) fun t => .next (rotFlags k v s.fC t)

/-- The flags of BIT: Z is the complement of the bit, N cleared, H set, C kept (R251). -/
def bitFlags (b : Fin 8) (v : Byte) (s : State) : State := s.setFlags (!v.getLsbD b) false true s.fC

/-- BIT of a register. -/
def bitReg (b : Fin 8) (r : Reg8) (s : State) : Result := .next (bitFlags b (s.reg r) s)

/-- BIT of the byte at HL: one read, no write. -/
def bitAtHl (b : Fin 8) (s : State) : Result := withRead s s.hl fun v => .next (bitFlags b v s)

/-- RES of a register (R253). -/
def resBitReg (b : Fin 8) (r : Reg8) (s : State) : Result := .next (s.setReg r (s.reg r &&& ~~~bitMask b))

/-- RES of the byte at HL (R254): the write is made whatever the bit was. -/
def resBitAtHl (b : Fin 8) (s : State) : Result :=
  withRead s s.hl fun v => withWrite s s.hl (v &&& ~~~bitMask b) .next

/-- SET of a register (R255). -/
def setBitReg (b : Fin 8) (r : Reg8) (s : State) : Result := .next (s.setReg r (s.reg r ||| bitMask b))

/-- SET of the byte at HL (R256). -/
def setBitAtHl (b : Fin 8) (s : State) : Result :=
  withRead s s.hl fun v => withWrite s s.hl (v ||| bitMask b) .next

/-! ### One-byte accumulator rotates -/

/-- `RLCA` (R231). -/
def execRlca (s : State) : Result := rotAccumulator .rlc s

/-- `RRCA` (R232). -/
def execRrca (s : State) : Result := rotAccumulator .rrc s

/-- `RLA` (R233). -/
def execRla (s : State) : Result := rotAccumulator .rl s

/-- `RRA` (R234). -/
def execRra (s : State) : Result := rotAccumulator .rr s

/-! ### CB rotates, shifts and SWAP -/

/-- `RLC r` (R235). -/
def execRlcR (r : Reg8) (s : State) : Result := rotReg .rlc r s

/-- `RLC (HL)` (R236). -/
def execRlcHl (s : State) : Result := rotAtHl .rlc s

/-- `RRC r` (R237). -/
def execRrcR (r : Reg8) (s : State) : Result := rotReg .rrc r s

/-- `RRC (HL)` (R238). -/
def execRrcHl (s : State) : Result := rotAtHl .rrc s

/-- `RL r` (R239). -/
def execRlR (r : Reg8) (s : State) : Result := rotReg .rl r s

/-- `RL (HL)` (R240). -/
def execRlHl (s : State) : Result := rotAtHl .rl s

/-- `RR r` (R241). -/
def execRrR (r : Reg8) (s : State) : Result := rotReg .rr r s

/-- `RR (HL)` (R242). -/
def execRrHl (s : State) : Result := rotAtHl .rr s

/-- `SLA r` (R243). -/
def execSlaR (r : Reg8) (s : State) : Result := rotReg .sla r s

/-- `SLA (HL)` (R244). -/
def execSlaHl (s : State) : Result := rotAtHl .sla s

/-- `SRA r` (R245). -/
def execSraR (r : Reg8) (s : State) : Result := rotReg .sra r s

/-- `SRA (HL)` (R246). -/
def execSraHl (s : State) : Result := rotAtHl .sra s

/-- `SWAP r` (R247). -/
def execSwapR (r : Reg8) (s : State) : Result := rotReg .swap r s

/-- `SWAP (HL)` (R248). -/
def execSwapHl (s : State) : Result := rotAtHl .swap s

/-- `SRL r` (R249). -/
def execSrlR (r : Reg8) (s : State) : Result := rotReg .srl r s

/-- `SRL (HL)` (R250). -/
def execSrlHl (s : State) : Result := rotAtHl .srl s

/-! ### BIT, RES, SET -/

/-- `BIT b,r` (R251). -/
def execBitR (b : Fin 8) (r : Reg8) (s : State) : Result := bitReg b r s

/-- `BIT b,(HL)` (R252). -/
def execBitHl (b : Fin 8) (s : State) : Result := bitAtHl b s

/-- `RES b,r` (R253). -/
def execResR (b : Fin 8) (r : Reg8) (s : State) : Result := resBitReg b r s

/-- `RES b,(HL)` (R254). -/
def execResHl (b : Fin 8) (s : State) : Result := resBitAtHl b s

/-- `SET b,r` (R255). -/
def execSetR (b : Fin 8) (r : Reg8) (s : State) : Result := setBitReg b r s

/-- `SET b,(HL)` (R256). -/
def execSetHl (b : Fin 8) (s : State) : Result := setBitAtHl b s

/-! ### The escape byte -/

/-- The Operation of `rot[y] r8[z]` (R99, R101 x = 0): the meaning of the row the index and the operand select. -/
def execRot (y : Nat) (o : Operand8) (s : State) : Result :=
  match y, o with
  | 0, .reg r => execRlcR r s
  | 0, .atHl => execRlcHl s
  | 1, .reg r => execRrcR r s
  | 1, .atHl => execRrcHl s
  | 2, .reg r => execRlR r s
  | 2, .atHl => execRlHl s
  | 3, .reg r => execRrR r s
  | 3, .atHl => execRrHl s
  | 4, .reg r => execSlaR r s
  | 4, .atHl => execSlaHl s
  | 5, .reg r => execSraR r s
  | 5, .atHl => execSraHl s
  | 6, .reg r => execSwapR r s
  | 6, .atHl => execSwapHl s
  | _, .reg r => execSrlR r s
  | _, .atHl => execSrlHl s

/-- The Operation of `CBTable[op2]` by the fields of the second byte (R101). -/
def execSecondary (op2 : Byte) (s : State) : Result :=
  match fieldX op2, operand8 (fieldZ op2) with
  | 0, o => execRot (fieldY op2) o s
  | 1, .reg r => execBitR (literalY op2) r s
  | 1, .atHl => execBitHl (literalY op2) s
  | 2, .reg r => execResR (literalY op2) r s
  | 2, .atHl => execResHl (literalY op2) s
  | _, .reg r => execSetR (literalY op2) r s
  | _, .atHl => execSetHl (literalY op2) s

/-- `PREFIX CB` (R295): fetch the second byte, then run the Operation it selects (log 9). -/
def execPrefixCb (s : State) : Result := withFetch8 s execSecondary

end Sys2Proof.Machine
end

