-- ==== Sys2Proof/Machine/System.lean ====
section
/-! DEFINITION. The system instructions (`46_system.md`, R290 to R294, R296). -/

namespace Sys2Proof.Machine

/-- `NOP` (R290). -/
def execNop (s : State) : Result := .next s

/-- `STOP` (R291): its byte is fetched and ignored; `NotImplemented(0x10, PC − 2)` is latched. -/
def execStop (_n : Byte) (s : State) : Result := raise s (.notImplemented 0x10 (s.regs.pc - 2))

/-- `HALT` (R292). -/
def execHalt (s : State) : Result := .next { s with halted := true }

/-- A countdown armed unless it is already running (R18, D13). -/
def armIfIdle (c : Countdown) : Countdown := if c = .idle then .armed else c

/-- `DI` (R293): `if pd = 0: pd <- 2; pe <- 0`. -/
def execDi (s : State) : Result :=
  .next { s with intc := { s.intc with pd := armIfIdle s.intc.pd, pe := .idle } }

/-- `EI` (R294): `if pe = 0: pe <- 2; pd <- 0`. -/
def execEi (s : State) : Result :=
  .next { s with intc := { s.intc with pe := armIfIdle s.intc.pe, pd := .idle } }

/-- `ILLEGAL` (R296): `IllegalInstruction(op, PC − 1)` is latched, PC past the byte. -/
def execIllegal (op : Byte) (s : State) : Result := raise s (.illegalInstruction op (s.regs.pc - 1))

end Sys2Proof.Machine
end

