-- ==== Sys2Proof/Machine/Dispatch.lean ====
section
/-! DEFINITION. The dispatch: one arm per constructor of `Instr`, each one direct call of its meaning. -/

namespace Sys2Proof.Machine

def exec (i : Instr) (s : State) : Host.Outcome State Fault Refusal :=
  match i with
  | .ldRR dst src => Sys2Proof.Machine.execLdRR dst src s
  | .ldRHl dst => Sys2Proof.Machine.execLdRHl dst s
  | .ldHlR r => Sys2Proof.Machine.execLdHlR r s
  | .ldRD8 dst n => Sys2Proof.Machine.execLdRD8 dst n s
  | .ldHlD8 n => Sys2Proof.Machine.execLdHlD8 n s
  | .ldABc => Sys2Proof.Machine.execLdABc s
  | .ldADe => Sys2Proof.Machine.execLdADe s
  | .ldBcA => Sys2Proof.Machine.execLdBcA s
  | .ldDeA => Sys2Proof.Machine.execLdDeA s
  | .ldHliA => Sys2Proof.Machine.execLdHliA s
  | .ldHldA => Sys2Proof.Machine.execLdHldA s
  | .ldAHli => Sys2Proof.Machine.execLdAHli s
  | .ldAHld => Sys2Proof.Machine.execLdAHld s
  | .ldhA8A n => Sys2Proof.Machine.execLdhA8A n s
  | .ldhAA8 n => Sys2Proof.Machine.execLdhAA8 n s
  | .ldCA => Sys2Proof.Machine.execLdCA s
  | .ldAC => Sys2Proof.Machine.execLdAC s
  | .ldA16A nn => Sys2Proof.Machine.execLdA16A nn s
  | .ldAA16 nn => Sys2Proof.Machine.execLdAA16 nn s
  | .ldRrD16 p nn => Sys2Proof.Machine.execLdRrD16 p nn s
  | .ldA16Sp nn => Sys2Proof.Machine.execLdA16Sp nn s
  | .ldSpHl => Sys2Proof.Machine.execLdSpHl s
  | .ldHlSpR8 e => Sys2Proof.Machine.execLdHlSpR8 e s
  | .pushRr p => Sys2Proof.Machine.execPushRr p s
  | .popRr p => Sys2Proof.Machine.execPopRr p s
  | .popAf => Sys2Proof.Machine.execPopAf s
  | .addR r => Sys2Proof.Machine.execAddR r s
  | .addHl => Sys2Proof.Machine.execAddHl s
  | .addD8 n => Sys2Proof.Machine.execAddD8 n s
  | .adcR r => Sys2Proof.Machine.execAdcR r s
  | .adcHl => Sys2Proof.Machine.execAdcHl s
  | .adcD8 n => Sys2Proof.Machine.execAdcD8 n s
  | .subR r => Sys2Proof.Machine.execSubR r s
  | .subHl => Sys2Proof.Machine.execSubHl s
  | .subD8 n => Sys2Proof.Machine.execSubD8 n s
  | .sbcR r => Sys2Proof.Machine.execSbcR r s
  | .sbcHl => Sys2Proof.Machine.execSbcHl s
  | .sbcD8 n => Sys2Proof.Machine.execSbcD8 n s
  | .andR r => Sys2Proof.Machine.execAndR r s
  | .andHl => Sys2Proof.Machine.execAndHl s
  | .andD8 n => Sys2Proof.Machine.execAndD8 n s
  | .xorR r => Sys2Proof.Machine.execXorR r s
  | .xorHl => Sys2Proof.Machine.execXorHl s
  | .xorD8 n => Sys2Proof.Machine.execXorD8 n s
  | .orR r => Sys2Proof.Machine.execOrR r s
  | .orHl => Sys2Proof.Machine.execOrHl s
  | .orD8 n => Sys2Proof.Machine.execOrD8 n s
  | .cpR r => Sys2Proof.Machine.execCpR r s
  | .cpHl => Sys2Proof.Machine.execCpHl s
  | .cpD8 n => Sys2Proof.Machine.execCpD8 n s
  | .incR dst => Sys2Proof.Machine.execIncR dst s
  | .incHl => Sys2Proof.Machine.execIncHl s
  | .decR dst => Sys2Proof.Machine.execDecR dst s
  | .decHl => Sys2Proof.Machine.execDecHl s
  | .daa => Sys2Proof.Machine.execDaa s
  | .cpl => Sys2Proof.Machine.execCpl s
  | .scf => Sys2Proof.Machine.execScf s
  | .ccf => Sys2Proof.Machine.execCcf s
  | .incRr p => Sys2Proof.Machine.execIncRr p s
  | .decRr p => Sys2Proof.Machine.execDecRr p s
  | .addHlRr p => Sys2Proof.Machine.execAddHlRr p s
  | .addSpR8 e => Sys2Proof.Machine.execAddSpR8 e s
  | .rlca => Sys2Proof.Machine.execRlca s
  | .rrca => Sys2Proof.Machine.execRrca s
  | .rla => Sys2Proof.Machine.execRla s
  | .rra => Sys2Proof.Machine.execRra s
  | .rlcR r => Sys2Proof.Machine.execRlcR r s
  | .rlcHl => Sys2Proof.Machine.execRlcHl s
  | .rrcR r => Sys2Proof.Machine.execRrcR r s
  | .rrcHl => Sys2Proof.Machine.execRrcHl s
  | .rlR r => Sys2Proof.Machine.execRlR r s
  | .rlHl => Sys2Proof.Machine.execRlHl s
  | .rrR r => Sys2Proof.Machine.execRrR r s
  | .rrHl => Sys2Proof.Machine.execRrHl s
  | .slaR r => Sys2Proof.Machine.execSlaR r s
  | .slaHl => Sys2Proof.Machine.execSlaHl s
  | .sraR r => Sys2Proof.Machine.execSraR r s
  | .sraHl => Sys2Proof.Machine.execSraHl s
  | .swapR r => Sys2Proof.Machine.execSwapR r s
  | .swapHl => Sys2Proof.Machine.execSwapHl s
  | .srlR r => Sys2Proof.Machine.execSrlR r s
  | .srlHl => Sys2Proof.Machine.execSrlHl s
  | .bitR b r => Sys2Proof.Machine.execBitR b r s
  | .bitHl b => Sys2Proof.Machine.execBitHl b s
  | .resR b r => Sys2Proof.Machine.execResR b r s
  | .resHl b => Sys2Proof.Machine.execResHl b s
  | .setR b r => Sys2Proof.Machine.execSetR b r s
  | .setHl b => Sys2Proof.Machine.execSetHl b s
  | .jpA16 nn => Sys2Proof.Machine.execJpA16 nn s
  | .jpCc cc nn => Sys2Proof.Machine.execJpCc cc nn s
  | .jpHl => Sys2Proof.Machine.execJpHl s
  | .jrR8 e => Sys2Proof.Machine.execJrR8 e s
  | .jrCc cc e => Sys2Proof.Machine.execJrCc cc e s
  | .callA16 nn => Sys2Proof.Machine.execCallA16 nn s
  | .callCc cc nn => Sys2Proof.Machine.execCallCc cc nn s
  | .ret => Sys2Proof.Machine.execRet s
  | .retCc cc => Sys2Proof.Machine.execRetCc cc s
  | .reti => Sys2Proof.Machine.execReti s
  | .rst t => Sys2Proof.Machine.execRst t s
  | .nop => Sys2Proof.Machine.execNop s
  | .stop n => Sys2Proof.Machine.execStop n s
  | .halt => Sys2Proof.Machine.execHalt s
  | .di => Sys2Proof.Machine.execDi s
  | .ei => Sys2Proof.Machine.execEi s
  | .prefixCb => Sys2Proof.Machine.execPrefixCb s
  | .illegal op => Sys2Proof.Machine.execIllegal op s

end Sys2Proof.Machine
end

