-- ==== Sys2Proof/Machine/Timer.lean ====
section
/-! DEFINITION. The timer (`60_exceptions.md` R330 to R333). -/

namespace Sys2Proof.Machine

/-- The DIV bit TAC[1:0] selects (R25, R330). -/
def tacBit (tac : Byte) : Nat :=
  match (tac.extractLsb' 0 2).toNat with
  | 0 => 9
  | 1 => 3
  | 2 => 5
  | _ => 7

/-- TAC[2] (R25). -/
def tacEnabled (tac : Byte) : Bool := tac.getLsbD 2

/-- `TimaOverflow()` (R332): reload and request in the same tick. -/
def timaOverflow (s : State) : State :=
  { s with
    timer := { s.timer with tima := s.timer.tma }
    intc := { s.intc with iflag := s.intc.iflag ||| 0x04 } }

/-- `TimaIncrement()` (R331). -/
def timaIncrement (s : State) : State :=
  if s.timer.tima = 0xFF then timaOverflow s
  else { s with timer := { s.timer with tima := s.timer.tima + 1 } }

/-- Whether the selected bit falls between two values of DIV, the timer being enabled (R330). -/
def timerEdge (tac : Byte) (old new : Word) : Bool :=
  tacEnabled tac && old.getLsbD (tacBit tac) && !new.getLsbD (tacBit tac)

/-- `Tick()` (R330). -/
def tick (s : State) : State :=
  let new := s.timer.div + 1
  let t := { s with timer := { s.timer with div := new } }
  if timerEdge s.timer.tac s.timer.div new then timaIncrement t else t

/-- `Tick(n)`: n ticks in sequence (R330). -/
def tickN (n : Nat) (s : State) : State :=
  match n with
  | 0 => s
  | n + 1 => tickN n (tick s)

end Sys2Proof.Machine
end

