-- ==== Sys2Proof/Machine/Interrupts.lean ====
section
/-! DEFINITION. The interrupt phase of a Step (`60_exceptions.md` R312 to R316) and the host's requests. -/

namespace Sys2Proof.Machine

/-! ### External requests (R312) -/

/-- The IF bits the host may set: 0, 1, 3, 4. -/
def hostMask : Byte := 0x1B

/-- `IF <- IF | m`, m within 0x1B. -/
def hostRequest (s : State) (m : Byte) : State :=
  { s with intc := { s.intc with iflag := s.intc.iflag ||| (m &&& hostMask) } }

/-- What the host does between two Steps: the next mask of `requests`, if there is one (log 8). -/
def takeRequest (s : State) : State :=
  match s.requests with
  | [] => s
  | m :: ms => { hostRequest s m with requests := ms }

/-! ### The countdowns (R314) -/

/-- The pending-enable half of `Countdowns()`. -/
def countEnable (c : IntCtl) : IntCtl :=
  match c.pe with
  | .idle => c
  | .due => { c with pe := .idle, ime := true }
  | .armed => { c with pe := .due }

/-- The pending-disable half of `Countdowns()`. -/
def countDisable (c : IntCtl) : IntCtl :=
  match c.pd with
  | .idle => c
  | .due => { c with pd := .idle, ime := false }
  | .armed => { c with pd := .due }

/-- `Countdowns()`: enable first, then disable. -/
def countdowns (s : State) : State := { s with intc := countDisable (countEnable s.intc) }

/-! ### The scan (R315) -/

/-- Source i is pending: its IE bit and its IF bit are both 1 (R311). -/
def isPending (c : IntCtl) (i : IrqSource) : Bool := c.ie.getLsbD i.bit && c.iflag.getLsbD i.bit

/-- The pending source of the lowest bit, if there is one. -/
def pendingSource (c : IntCtl) : Option IrqSource :=
  [IrqSource.vblank, .lcdStat, .timer, .serial, .joypad].find? (isPending c)

/-- `Scan()`: at most one dispatch. -/
def scan (s : State) : Result :=
  match pendingSource s.intc with
  | some i => dispatch i s
  | none => .next s

/-- `InterruptPhase()` (R313). -/
def interruptPhase (s : State) : Result :=
  if (countdowns s).intc.ime then scan (countdowns s) else .next (countdowns s)

end Sys2Proof.Machine
end

