-- ==== Sys2Proof/Machine/Ticks.lean ====
section
/-! DEFINITION. The tick counts (`30_encoding.md` R104, R106, R107) and the tick parameters of `00_scope.md` R4. -/

namespace Sys2Proof.Machine

/-- `HALT_TICKS` (R4, D11). -/
def haltTicks : Nat := 4

/-- The count of R107 by the fields of the second byte: `BIT b,(HL)` 12, the other (HL) forms 16, registers 8. -/
def secondaryTicks (op2 : Byte) : Nat :=
  match operand8 (fieldZ op2), fieldX op2 with
  | .reg _, _ => 8
  | .atHl, 1 => 12
  | .atHl, _ => 16

/-- `TICKS(instr, taken)` (R104), with `taken` read from the state the instruction starts in: a conditional transfer
writes no flag (R270; log 11). STOP and ILLEGAL raise, so their count is never delivered (R291, R296). The counts of
the row PREFIX CB are those of the instruction its second byte selects (R295). -/
def ticks (i : Instr) (s : State) : Nat :=
  match i with
  | .ldRR _ _ => 4
  | .ldRHl _ => 8
  | .ldHlR _ => 8
  | .ldRD8 _ _ => 8
  | .ldHlD8 _ => 12
  | .ldABc => 8
  | .ldADe => 8
  | .ldBcA => 8
  | .ldDeA => 8
  | .ldHliA => 8
  | .ldHldA => 8
  | .ldAHli => 8
  | .ldAHld => 8
  | .ldhA8A _ => 12
  | .ldhAA8 _ => 12
  | .ldCA => 8
  | .ldAC => 8
  | .ldA16A _ => 16
  | .ldAA16 _ => 16
  | .ldRrD16 _ _ => 12
  | .ldA16Sp _ => 20
  | .ldSpHl => 8
  | .ldHlSpR8 _ => 12
  | .pushRr _ => 16
  | .popRr _ => 12
  | .popAf => 12
  | .addR _ => 4
  | .addHl => 8
  | .addD8 _ => 8
  | .adcR _ => 4
  | .adcHl => 8
  | .adcD8 _ => 8
  | .subR _ => 4
  | .subHl => 8
  | .subD8 _ => 8
  | .sbcR _ => 4
  | .sbcHl => 8
  | .sbcD8 _ => 8
  | .andR _ => 4
  | .andHl => 8
  | .andD8 _ => 8
  | .xorR _ => 4
  | .xorHl => 8
  | .xorD8 _ => 8
  | .orR _ => 4
  | .orHl => 8
  | .orD8 _ => 8
  | .cpR _ => 4
  | .cpHl => 8
  | .cpD8 _ => 8
  | .incR _ => 4
  | .incHl => 12
  | .decR _ => 4
  | .decHl => 12
  | .daa => 4
  | .cpl => 4
  | .scf => 4
  | .ccf => 4
  | .incRr _ => 8
  | .decRr _ => 8
  | .addHlRr _ => 8
  | .addSpR8 _ => 16
  | .rlca => 4
  | .rrca => 4
  | .rla => 4
  | .rra => 4
  | .rlcR _ => 8
  | .rlcHl => 16
  | .rrcR _ => 8
  | .rrcHl => 16
  | .rlR _ => 8
  | .rlHl => 16
  | .rrR _ => 8
  | .rrHl => 16
  | .slaR _ => 8
  | .slaHl => 16
  | .sraR _ => 8
  | .sraHl => 16
  | .swapR _ => 8
  | .swapHl => 16
  | .srlR _ => 8
  | .srlHl => 16
  | .bitR _ _ => 8
  | .bitHl _ => 12
  | .resR _ _ => 8
  | .resHl _ => 16
  | .setR _ _ => 8
  | .setHl _ => 16
  | .jpA16 _ => 16
  | .jpCc cc _ => if s.cond cc then 16 else 12
  | .jpHl => 4
  | .jrR8 _ => 12
  | .jrCc cc _ => if s.cond cc then 12 else 8
  | .callA16 _ => 24
  | .callCc cc _ => if s.cond cc then 24 else 12
  | .ret => 16
  | .retCc cc => if s.cond cc then 20 else 8
  | .reti => 16
  | .rst _ => 16
  | .nop => 4
  | .stop _ => 4
  | .halt => 4
  | .di => 4
  | .ei => 4
  | .prefixCb => secondaryTicks ((busRead s s.regs.pc).getD 0)
  | .illegal _ => 0

end Sys2Proof.Machine
end

