-- ==== Sys2Proof/Machine/Fetch.lean ====
section
/-! DEFINITION. The fetch of one instruction and the end of a Step (`30_encoding.md` R93 to R96). -/

namespace Sys2Proof.Machine

/-- Fetch the opcode, the second byte after 0xCB and the operand bytes, each with `Fetch8` (R93, R97), and go on with
the instruction and the state whose PC is past it. Every Operation begins with its fetches (R73), so all of them are
made here (log 10). -/
def withInstr (s : State) (k : Instr → State → Result) : Result :=
  withFetch8 s fun op s1 =>
    match primaryTable op with
    | .op0 i => k i s1
    | .op8 f => withFetch8 s1 fun n s2 => k (f n) s2
    | .op16 f => withFetch16 s1 fun nn s2 => k (f nn) s2
    | .escape => withFetch8 s1 fun op2 s2 => k (secondaryTable op2) s2
    | .unknown => raise s1 (.unknownOpcode op (s1.regs.pc - 1))

/-- The rest of a Step after the Operation (R93, R300): nothing more if it raised; else its ticks, then the interrupt
phase. -/
def finishStep (n : Nat) (o : Result) : Result :=
  match o with
  | .next t =>
    match t.fault with
    | some _ => .next t
    | none => interruptPhase (tickN n t)
  | .fault f => .fault f
  | .refused r => .refused r

/-- A Step of a halted machine: its ticks, then the interrupt phase (R93, D31). -/
def haltedStep (s : State) : Result := interruptPhase (tickN haltTicks s)

/-! ### Where the next instruction is fetched, for `State.withFetchWord` -/

/-- Whether three bytes at `a` all have cells. -/
def holdsInstr (a : Word) : Bool :=
  Memory.backed a.toNat && Memory.backed (a + 1).toNat && Memory.backed (a + 2).toNat

/-- PC where an instruction can be placed at it; otherwise the reset entry (log 7). -/
def placeAddress (s : State) : Word := if holdsInstr s.regs.pc then s.regs.pc else 0x0100

/-- Put bytes into the cells from `a` up, ROM cells too: this is the load of a program, not a store. -/
def placeBytes (m : Memory) (a : Word) (bytes : List Byte) : Memory :=
  match bytes with
  | [] => m
  | v :: rest => placeBytes (m.write a.toNat v) (a + 1) rest

/-- A machine that fetches next, with the bytes at the address it fetches from. -/
def placeInstr (s : State) (bytes : List Byte) : State :=
  { s with
    regs := { s.regs with pc := placeAddress s }
    mem := placeBytes s.mem (placeAddress s) bytes
    halted := false
    fault := none }

end Sys2Proof.Machine
end

