-- ==== Sys2Proof/Machine/Step.lean ====
section
/-! DEFINITION. One Step of the engine (`30_encoding.md` R93). -/

namespace Sys2Proof.Machine

/-- `Step()` (R93). A latched fault leaves no transition (R300): the outcome is that fault. Otherwise the host's
request of the gap before this Step is taken (R312); a halted machine ticks and polls; any other fetches an
instruction, performs it, ticks its count and runs the interrupt phase. -/
def step (s : State) : Host.Outcome State Fault Refusal :=
  match s.fault with
  | some f => .fault f
  | none =>
    if (takeRequest s).halted then haltedStep (takeRequest s)
    else withInstr (takeRequest s) fun i t => finishStep (ticks i t) (exec i t)

/-- The state with the instruction's `nbits` bits `w` (zeros above them, three bytes in all) at the address `step`
fetches from next; the halted state and a latched fault, with which nothing is fetched, are ended (log 7). -/
def State.withFetchWord (s : State) (nbits w : Nat) : State :=
  placeInstr s (bytesOf 3 (w % 2 ^ nbits))

end Sys2Proof.Machine
end

