-- ==== Sys2Proof/Safety.lean ====
section
/-! DEFINITION. What claims are stated in: a machine that has not faulted, the ranges of the address map, what an
instruction leaves unchanged, what a store does, the quiescent state, and the invariant of every Step boundary. -/

namespace Sys2Proof

open Sys2Proof.Machine

/-- A run is good as long as no fault is latched (`60_exceptions.md` R300: "a faulted state is never a final state of
a successful run"). -/
def Safe (s : State) : Prop := s.fault = none

/-! ### The address map (`20_memory.md` R52 to R63) -/

/-- The two fatal ranges (R58, R59). -/
abbrev IsFatal (a : Word) : Prop :=
  (0xE000 ≤ a.toNat ∧ a.toNat ≤ 0xFDFF) ∨ (0xFEA0 ≤ a.toNat ∧ a.toNat ≤ 0xFEFF)

/-- Addresses that hold what is stored: CRAM, WRAM, HRAM (R55, R56, R57). -/
abbrev IsRam (a : Word) : Prop :=
  (0xA000 ≤ a.toNat ∧ a.toNat ≤ 0xDFFF) ∨ (0xFF80 ≤ a.toNat ∧ a.toNat ≤ 0xFFFE)

/-- The stub addresses (R61, R60). -/
abbrev IsStub (a : Word) : Prop :=
  (0x8000 ≤ a.toNat ∧ a.toNat ≤ 0x9FFF) ∨ (0xFE00 ≤ a.toNat ∧ a.toNat ≤ 0xFE9F) ∨
  (0xFF00 ≤ a.toNat ∧ a.toNat ≤ 0xFF7F ∧
    a.toNat ≠ 0xFF04 ∧ a.toNat ≠ 0xFF05 ∧ a.toNat ≠ 0xFF06 ∧ a.toNat ≠ 0xFF07 ∧ a.toNat ≠ 0xFF0F)

/-- Addresses whose byte reads back as stored: RAM, TIMA, TMA, TAC, IF and IE (R55 to R57, R60, R63). -/
abbrev ReadsBack (a : Word) : Prop :=
  IsRam a ∨ a = 0xFF05 ∨ a = 0xFF06 ∨ a = 0xFF07 ∨ a = 0xFF0F ∨ a = 0xFFFF

/-- The bytes read at consecutive addresses from `a` up. -/
def Holds (s : State) (a : Word) (bytes : List Byte) : Prop :=
  match bytes with
  | [] => True
  | v :: rest => busRead s a = some v ∧ Holds s (a + 1) rest

/-! ### Frames -/

/-- Nothing but registers and stored bytes differs: IME, both countdowns, the halted state, the fault latch, and the
model's own two fields. -/
structure SameControl (s t : State) : Prop where
  ime : t.intc.ime = s.intc.ime
  pe : t.intc.pe = s.intc.pe
  pd : t.intc.pd = s.intc.pd
  halted : t.halted = s.halted
  fault : t.fault = s.fault
  stubRead : t.stubRead = s.stubRead
  requests : t.requests = s.requests

/-- Nothing but registers differs: no byte of the address space, no control state, and not DIV, whose low byte has no
address. -/
structure StoresNothing (s t : State) : Prop where
  memory : ∀ a, busRead t a = busRead s a
  div : t.timer.div = s.timer.div
  control : SameControl s t

/-- What a store of the byte `v` at the address `a` makes of `s` (R51, R53 to R63): every other byte reads as before;
the byte itself reads back, is ignored with DIV cleared, or is discarded; each register with an address changes only
if it is the one addressed; IME and the rest of the control state stand. -/
structure Stored (s t : State) (a : Word) (v : Byte) : Prop where
  others : ∀ x, x ≠ a → busRead t x = busRead s x
  here : busRead t a = if ReadsBack a then some v else if a = 0xFF04 then some 0 else busRead s a
  div : t.timer.div = if a = 0xFF04 then 0 else s.timer.div
  tima : t.timer.tima = if a = 0xFF05 then v else s.timer.tima
  tma : t.timer.tma = if a = 0xFF06 then v else s.timer.tma
  tac : t.timer.tac = if a = 0xFF07 then v else s.timer.tac
  iflag : t.intc.iflag = if a = 0xFF0F then v else s.intc.iflag
  ie : t.intc.ie = if a = 0xFFFF then v else s.intc.ie
  control : SameControl s t

/-- What a store of the word `v` at `a` makes of `s`: its low byte at `a`, then its high byte at the next address
(R65), and every other byte as before. -/
def StoredWord (s t : State) (a v : Word) : Prop :=
  (∀ x, x ≠ a → x ≠ a + 1 → busRead t x = busRead s x) ∧
  ∃ u, Stored s u a (lo8 v) ∧ Stored u t (a + 1) (hi8 v)

/-- Every 8-bit register but `dst` is kept, and F, SP and PC are. -/
structure OnlyReg (dst : Reg8) (s t : State) : Prop where
  others : ∀ r, r ≠ dst → t.reg r = s.reg r
  f : t.regs.f = s.regs.f
  sp : t.regs.sp = s.regs.sp
  pc : t.regs.pc = s.regs.pc

/-- Of the 8-bit registers and F only `dst` and F may differ; SP and PC are kept. -/
structure OnlyRegAndFlags (dst : Reg8) (s t : State) : Prop where
  others : ∀ r, r ≠ dst → t.reg r = s.reg r
  sp : t.regs.sp = s.regs.sp
  pc : t.regs.pc = s.regs.pc

/-- Every register but F is kept. -/
structure OnlyFlags (s t : State) : Prop where
  regs : ∀ r, t.reg r = s.reg r
  sp : t.regs.sp = s.regs.sp
  pc : t.regs.pc = s.regs.pc

/-- The four flags of `t`, and F[3:0] as it was in `s` (R6, R12). -/
structure FlagsAre (s t : State) (z n h c : Bool) : Prop where
  z : t.fZ = z
  n : t.fN = n
  h : t.fH = h
  c : t.fC = c
  low : t.regs.f.extractLsb' 0 4 = s.regs.f.extractLsb' 0 4

/-! ### Whole states -/

/-- The quiescent state of R364: `halted ∧ ¬IME ∧ pe = 0`, the end of a run. -/
def Quiescent (s : State) : Prop :=
  s.halted = true ∧ s.intc.ime = false ∧ s.intc.pe = .idle

/-- The machine takes a fetching Step, and the bytes at PC are `bytes` once the host's request of this gap is in
(R93, R312). -/
def Fetches (s : State) (bytes : List Byte) : Prop :=
  s.fault = none ∧ s.halted = false ∧ Holds (takeRequest s) s.regs.pc bytes

/-- What a latched fault says is true of the state it is latched in (R302, R304, R305, R306); the two unreachable
conditions are never latched (R301, R303). -/
def FaultSound (s : State) (f : Fault) : Prop :=
  match f with
  | .unknownOpcode _ _ => False
  | .invalidOperand => False
  | .illegalInstruction op addr => op ∈ illegalOpcodes ∧ s.regs.pc = addr + 1
  | .busAccessError addr _ => IsFatal addr
  | .notImplemented op addr => op = 0x10 ∧ s.regs.pc = addr + 2

/-- The invariant of every Step boundary: F[3:0] is zero (R12), the cells are in canonical form, each countdown is 0
or 1 and not both are 1 (R314), and a latched fault is sound (R306). -/
structure Inv (s : State) : Prop where
  flags : s.regs.f.extractLsb' 0 4 = 0#4
  cells : s.mem.wf = true
  enable : s.intc.pe ≠ .armed
  disable : s.intc.pd ≠ .armed
  exclusive : s.intc.pe = .idle ∨ s.intc.pd = .idle
  latch : ∀ f, s.fault = some f → FaultSound s f

end Sys2Proof
end

