-- ==== Sys2Proof/Certificates/Slice0/Obligations.lean ====
section
/-! DEFINITION. The statements, from the rules of `spec/` file by file. An instruction's Operation starts from the
state whose PC is past its bytes (R15), so `exec i s` is stated of that state; `Obligations.StepRunsDecodedInstruction`
ties it to a Step. -/

open Sys2Proof Sys2Proof.Machine

/-! ## The encoding (30_encoding.md) -/

/-- R90, R98 to R103, R106, R107: no bit of an operand is dropped. The lone prefix byte is no instruction (R103), and
the constructor for it is the model's choice (log 9). -/
def Obligations.DecodeUndoesEncode : Prop :=
  ∀ (i : Instr) (rest : List Byte), i.wellFormed = true → i ≠ .prefixCb → decode (encode i ++ rest) = .instr i rest

/-- The other direction: what is decoded is exactly the bytes consumed, and is well formed. That the lone byte 0xCB,
which R103 calls no instruction, decodes to `prefixCb` is the model's choice (log 9). -/
def Obligations.DecodedBytesAreTheEncoding : Prop :=
  ∀ (bytes rest : List Byte) (i : Instr), decode bytes = .instr i rest →
    bytes = encode i ++ rest ∧ i.wellFormed = true ∧ (i = .prefixCb → rest = [])

/-- R102: the eleven bytes. As a primary opcode each raises after the fetch has advanced PC; behind 0xCB or as an
immediate it is data. Of the 256 primary bytes one is the prefix and 244 are neither. That such a byte DECODES to an
instruction ILLEGAL, whose Operation raises, is the model's reading (DEDUCED, log 10; R92 has `Decode` answer the
fault), and the Step takes the host's request of its gap first (log 8). -/
def Obligations.IllegalOpcodesAreTheEleven : Prop :=
  (∀ op, op ∈ illegalOpcodes ↔ op ∈ [(0xD3 : Byte), 0xDB, 0xDD, 0xE3, 0xE4, 0xEB, 0xEC, 0xED, 0xF4, 0xFC, 0xFD]) ∧
  (∀ op rest, op ∈ illegalOpcodes → decode (op :: rest) = .instr (.illegal op) rest) ∧
  (∀ bytes rest op, decode bytes = .instr (.illegal op) rest → op ∈ illegalOpcodes ∧ bytes = op :: rest) ∧
  (∀ op rest, op ∈ illegalOpcodes →
    decode (0x3E :: op :: rest) = .instr (.ldRD8 .a op) rest ∧
    ∃ i, decode (0xCB :: op :: rest) = .instr i rest ∧ ∀ x, i ≠ .illegal x) ∧
  ((List.range 256).countP fun n => decide (BitVec.ofNat 8 n ∉ illegalOpcodes ∧ n ≠ 0xCB)) = 244 ∧
  (∀ (s : State) op, op ∈ illegalOpcodes → Fetches s [op] →
    step s = .next { (takeRequest s).setPc (s.regs.pc + 1) with
      fault := some (.illegalInstruction op s.regs.pc) })

/-- R92, R103, R301: no byte is without an entry, every second byte is an instruction of two bytes and 8, 12 or 16
ticks, and 0xCB 0xCB is SET 1,E. -/
def Obligations.TablesAreTotal : Prop :=
  (∀ (bytes : List Byte) (op : Byte), decode bytes ≠ .reject (.unknownOpcode op)) ∧
  (∀ (op2 : Byte) (rest : List Byte), ∃ i, decode (0xCB :: op2 :: rest) = .instr i rest ∧ encode i = [0xCB, op2] ∧
    i ≠ .prefixCb ∧ (∀ op, i ≠ .illegal op) ∧ ∀ s, ticks i s = 8 ∨ ticks i s = 12 ∨ ticks i s = 16) ∧
  (∀ rest, decode (0xCB :: 0xCB :: rest) = .instr (.setR 1 .e) rest)

/-- The tick column of R106, a line for each high nibble; of two counts the one for `taken`. 0 stands at the eleven
illegal opcodes and at 0xCB, which have none. -/
def primaryTicks : List Nat :=
    [4, 12, 8, 8, 4, 4, 8, 4, 20, 8, 8, 8, 4, 4, 8, 4] ++
    [4, 12, 8, 8, 4, 4, 8, 4, 12, 8, 8, 8, 4, 4, 8, 4] ++
    [12, 12, 8, 8, 4, 4, 8, 4, 12, 8, 8, 8, 4, 4, 8, 4] ++
    [12, 12, 8, 8, 12, 12, 12, 4, 12, 8, 8, 8, 4, 4, 8, 4] ++
    [4, 4, 4, 4, 4, 4, 8, 4, 4, 4, 4, 4, 4, 4, 8, 4] ++
    [4, 4, 4, 4, 4, 4, 8, 4, 4, 4, 4, 4, 4, 4, 8, 4] ++
    [4, 4, 4, 4, 4, 4, 8, 4, 4, 4, 4, 4, 4, 4, 8, 4] ++
    [8, 8, 8, 8, 8, 8, 4, 8, 4, 4, 4, 4, 4, 4, 8, 4] ++
    [4, 4, 4, 4, 4, 4, 8, 4, 4, 4, 4, 4, 4, 4, 8, 4] ++
    [4, 4, 4, 4, 4, 4, 8, 4, 4, 4, 4, 4, 4, 4, 8, 4] ++
    [4, 4, 4, 4, 4, 4, 8, 4, 4, 4, 4, 4, 4, 4, 8, 4] ++
    [4, 4, 4, 4, 4, 4, 8, 4, 4, 4, 4, 4, 4, 4, 8, 4] ++
    [20, 12, 16, 16, 24, 16, 8, 16, 20, 16, 16, 0, 24, 24, 8, 16] ++
    [20, 12, 16, 0, 24, 16, 8, 16, 20, 16, 16, 0, 24, 0, 8, 16] ++
    [12, 12, 8, 0, 0, 16, 8, 16, 16, 4, 16, 0, 0, 0, 8, 16] ++
    [12, 12, 8, 4, 0, 16, 8, 16, 12, 8, 16, 4, 0, 0, 8, 16]

/-- The count of R106 for a transfer not taken, where there are two. -/
def notTakenTicks : List (Nat × Nat) :=
  [(0x20, 8), (0x28, 8), (0x30, 8), (0x38, 8), (0xC0, 8), (0xC2, 12), (0xC4, 12), (0xC8, 8),
   (0xCA, 12), (0xCC, 12), (0xD0, 8), (0xD2, 12), (0xD4, 12), (0xD8, 8), (0xDA, 12), (0xDC, 12)]

/-- `cond(cc)` (R270) for the condition field of an opcode byte, bits 4 and 3. -/
def opcodeTakes (op : Byte) (s : State) : Bool :=
  match op.toNat / 8 % 4 with
  | 0 => !s.regs.f.getLsbD 7
  | 1 => s.regs.f.getLsbD 7
  | 2 => !s.regs.f.getLsbD 4
  | _ => s.regs.f.getLsbD 4

/-- R104, R106, R107: the tick count of every primary opcode, with the two counts of the conditional transfers, and of
every secondary opcode. The counts are the spec's decision D10, and `taken` is read where the Operation starts
(log 11). -/
def Obligations.TickCounts : Prop :=
  (∀ (op n m : Byte) (rest : List Byte) (i : Instr) (s : State),
    decode [op, n, m] = .instr i rest → op ≠ 0xCB → op ∉ illegalOpcodes →
    ticks i s =
      if opcodeTakes op s then primaryTicks.getD op.toNat 0
      else (notTakenTicks.lookup op.toNat).getD (primaryTicks.getD op.toNat 0)) ∧
  (∀ (op2 : Byte) (rest : List Byte) (i : Instr) (s : State), decode (0xCB :: op2 :: rest) = .instr i rest →
    ticks i s =
      if op2.toNat % 8 ≠ 6 then 8 else if 0x40 ≤ op2.toNat ∧ op2.toNat ≤ 0x7F then 12 else 16)

/-- A few words of every family, each written from the encoding line of its rule. -/
def Obligations.SampleWordsDecode : Prop :=
  -- R120 `01 ddd sss`, R123 `00 ddd 110`, R133, R138
  decode [0b01000001] = .instr (.ldRR .b .c) [] ∧
  decode [0b00111110, 0x12] = .instr (.ldRD8 .a 0x12) [] ∧
  decode [0b11100000, 0x44] = .instr (.ldhA8A 0x44) [] ∧
  decode [0b11111010, 0x34, 0xC2] = .instr (.ldAA16 0xC234) [] ∧
  -- R150 `00 pp 0001`, R154 `11 pp 0101`, R156
  decode [0b00110001, 0xFE, 0xFF] = .instr (.ldRrD16 .sp 0xFFFE) [] ∧
  decode [0b11010101] = .instr (.pushRr .de) [] ∧
  decode [0b11110001] = .instr .popAf [] ∧
  -- R181 `10 011 sss`, R195, R198 `00 ddd 101`, R223 `00 pp 1001`
  decode [0b10011100] = .instr (.sbcR .h) [] ∧
  decode [0b11111110, 0x3C] = .instr (.cpD8 0x3C) [] ∧
  decode [0b00010101] = .instr (.decR .d) [] ∧
  decode [0b00101001] = .instr (.addHlRr .hl) [] ∧
  -- R231, R247 `CB 00 110 sss`, R252 `CB 01 bbb 110`
  decode [0b00000111] = .instr .rlca [] ∧
  decode [0b11001011, 0b00110111] = .instr (.swapR .a) [] ∧
  decode [0b11001011, 0b01111110] = .instr (.bitHl 7) [] ∧
  -- R275 `001 cc 000`, R277 `110 cc 100`, R281 `11 ttt 111`, R294, R296
  decode [0b00100000, 0xFC] = .instr (.jrCc .nz 0xFC) [] ∧
  decode [0b11011100, 0x50, 0x01] = .instr (.callCc .c 0x0150) [] ∧
  decode [0b11101111] = .instr (.rst 5) [] ∧
  decode [0b11111011] = .instr .ei [] ∧
  decode [0b11010011] = .instr (.illegal 0xD3) []

/-! ## The Step (30_encoding.md R93 to R96, 60_exceptions.md R300) -/

/-- R93: when the bytes at PC are an instruction's, the Step performs it from the state past its bytes, then delivers
its ticks and runs the interrupt phase, unless it raised; a halted machine's Step is 4 ticks (the spec's decision D11,
log 11) and the interrupt phase. Before either the host's request of the gap is in (R312): the next mask of the list,
if there is one, sets IF bits 0, 1, 3, 4 and touches nothing else. The list is the model's (log 8). -/
def Obligations.StepRunsDecodedInstruction : Prop :=
  (∀ (s : State) (i : Instr), i.wellFormed = true → Fetches s (encode i) →
    step s =
      finishStep (ticks i ((takeRequest s).setPc (s.regs.pc + BitVec.ofNat 16 (encode i).length)))
        (exec i ((takeRequest s).setPc (s.regs.pc + BitVec.ofNat 16 (encode i).length)))) ∧
  (∀ s : State, s.fault = none → s.halted = true → step s = interruptPhase (tickN 4 (takeRequest s))) ∧
  (∀ (n : Nat) (t : State), t.fault ≠ none → finishStep n (.next t) = .next t) ∧
  (∀ (n : Nat) (t : State), t.fault = none → finishStep n (.next t) = interruptPhase (tickN n t)) ∧
  (∀ s : State, s.requests = [] → takeRequest s = s) ∧
  (∀ (s : State) (m : Byte) (ms : List Byte), s.requests = m :: ms →
    takeRequest s = { s with requests := ms, intc := { s.intc with iflag := (takeRequest s).intc.iflag } } ∧
    ∀ j, (takeRequest s).intc.iflag.getLsbD j =
      (s.intc.iflag.getLsbD j || (decide (j = 0 ∨ j = 1 ∨ j = 3 ∨ j = 4) && m.getLsbD j)))

/-- R94, R96: a fetch at a fatal address latches BusAccessError there; PC stays at the refused address, past the bytes
fetched before it, and nothing else changes. `k` bytes of an instruction of more than `k` have been fetched. -/
def Obligations.FetchStopsAtFatalAddress : Prop :=
  ∀ (s : State) (i : Instr) (k : Nat), i.wellFormed = true → k < (encode i).length →
    Fetches s ((encode i).take k) → IsFatal (s.regs.pc + BitVec.ofNat 16 k) →
    step s = .next { (takeRequest s).setPc (s.regs.pc + BitVec.ofNat 16 k) with
      fault := some (.busAccessError (s.regs.pc + BitVec.ofNat 16 k) .read) }

/-- R300: a machine with no latched fault always takes its Step; one with a latched fault stops with that fault.
Nothing is refused. -/
def Obligations.OnlyALatchedFaultStops : Prop :=
  ∀ s : State, (s.fault = none → ∃ t, step s = .next t) ∧ (∀ f, s.fault = some f → step s = .fault f)

/-- R4, R53, R61, R345: no Step changes STUB_READ or what a ROM address reads as. -/
def Obligations.LaunchParametersNeverChange : Prop :=
  ∀ s t : State, step s = .next t →
    t.stubRead = s.stubRead ∧ ∀ a : Word, a.toNat < 0x8000 → busRead t a = busRead s a

/-- Every Step keeps the invariant (R12, R18, R306, R314; the canonical form of the cells). -/
def Obligations.StepKeepsInvariant : Prop := ∀ s t : State, Inv s → step s = .next t → Inv t

/-- The invariant holds after every reset whose image is in canonical form (R33, R34, R37). -/
def Obligations.ResetHasInvariant : Prop :=
  Inv State.reset ∧ ∀ p : Launch, p.image.wf = true → Inv (State.resetWith p)

/-- R31, R32, R33: the register file after every reset. N and F[3:0] of R33 are the spec's decision D18 (log 4). -/
def Obligations.BootRegisters : Prop :=
  ∀ p : Launch,
    let g := (State.resetWith p).regs
    g.a = 0x01 ∧ g.b = 0x00 ∧ g.c = 0x13 ∧ g.d = 0x00 ∧ g.e = 0xD8 ∧ g.h = 0x01 ∧ g.l = 0x4D ∧
    g.sp = 0xFFFE ∧ g.pc = 0x0100 ∧
    g.f = (if p.headerChecksumNonzero then 0xB0 else 0x80) ∧
    (State.resetWith p).fZ = true ∧ (State.resetWith p).fN = false ∧
    (State.resetWith p).fH = p.headerChecksumNonzero ∧ (State.resetWith p).fC = p.headerChecksumNonzero

/-! ## Halting (46_system.md R292, 70_reset_and_hazards.md R364) -/

/-- R19, R93, R344: a Step of a halted machine fetches nothing. Either nothing but the timer and the interrupt state
moves; or one pending source is dispatched, which alone ends the halted state; or its push raised. -/
def Obligations.HaltedStepOnlyPolls : Prop :=
  ∀ s t : State, s.fault = none → s.halted = true → step s = .next t →
    (t.halted = true ∧ t.fault = none ∧ t.regs = s.regs ∧ t.mem = s.mem) ∨
    (t.halted = false ∧ t.fault = none ∧ t.intc.ime = false ∧
      ∃ i : IrqSource, t.regs = { s.regs with sp := s.regs.sp - 2, pc := i.vector }) ∨
    (t.halted = true ∧ t.fault ≠ none ∧ t.regs = { s.regs with sp := s.regs.sp - 2 })

/-- R364: after a halt with IME false and no pending enable, every later Step only advances DIV and TIMA and possibly
sets IF bit 2 (no host request comes). If `pe` is 1 when HALT executes, IME becomes true in that Step. HALT_TICKS is 4
by the spec's decision D11. -/
def Obligations.QuiescentForEver : Prop :=
  (∀ (k : Nat) (s : State), Quiescent s → s.fault = none → s.requests = [] →
    ∃ t : State, Host.Core.run Sys2Proof.core k s = .next t ∧ Quiescent t ∧ t.fault = none ∧
      t.regs = s.regs ∧ t.mem = s.mem ∧ t.intc.ie = s.intc.ie ∧ t.timer.tma = s.timer.tma ∧
      t.timer.tac = s.timer.tac ∧ t.timer.div = s.timer.div + BitVec.ofNat 16 (4 * k) ∧
      (t.intc.iflag = s.intc.iflag ∨ t.intc.iflag = s.intc.iflag ||| 0x04)) ∧
  (∀ s t : State, s.intc.pe = .due → s.intc.pd = .idle → exec .halt s = .next t →
    t.halted = true ∧ (countdowns t).intc.ime = true)

/-! ## Interrupts (60_exceptions.md R310 to R316) -/

/-- (IME, pe, pd). -/
def masterState (s : State) : Bool × Countdown × Countdown := (s.intc.ime, s.intc.pe, s.intc.pd)

/-- The rows and the four columns of the table of R314: instruction X, EI, DI, RETI. -/
def masterTable : List ((Bool × Countdown × Countdown) ×
    (Bool × Countdown × Countdown) × (Bool × Countdown × Countdown) ×
    (Bool × Countdown × Countdown) × (Bool × Countdown × Countdown)) :=
  [((false, .idle, .idle), (false, .idle, .idle), (false, .due, .idle), (false, .idle, .due), (true, .idle, .idle)),
   ((false, .due, .idle), (true, .idle, .idle), (true, .idle, .idle), (false, .idle, .due), (true, .idle, .idle)),
   ((false, .idle, .due), (false, .idle, .idle), (false, .due, .idle), (false, .idle, .idle), (true, .idle, .idle)),
   ((true, .idle, .idle), (true, .idle, .idle), (true, .due, .idle), (true, .idle, .due), (true, .idle, .idle)),
   ((true, .due, .idle), (true, .idle, .idle), (true, .idle, .idle), (true, .idle, .due), (true, .idle, .idle)),
   ((true, .idle, .due), (false, .idle, .idle), (true, .due, .idle), (false, .idle, .idle), (true, .idle, .idle))]

/-- R314: the transition table of the delayed master enable. A column is what the instruction and then the countdowns
make of the row; a dispatch comes after them. RETI counts only when its pop did not raise. The mechanics are the spec's
decision D13 (log 15). -/
def Obligations.MasterEnableTable : Prop :=
  ∀ (s t : State) (x afterX afterEi afterDi afterReti : Bool × Countdown × Countdown),
    (x, afterX, afterEi, afterDi, afterReti) ∈ masterTable → masterState s = x →
    (∀ i, i ≠ .ei → i ≠ .di → i ≠ .reti → exec i s = .next t → masterState (countdowns t) = afterX) ∧
    (exec .ei s = .next t → masterState (countdowns t) = afterEi) ∧
    (exec .di s = .next t → masterState (countdowns t) = afterDi) ∧
    (exec .reti s = .next t → t.fault = none → masterState (countdowns t) = afterReti)

/-- R294, R293: EI immediately followed by DI never enables: IME is false after both Steps and nothing was
dispatched. -/
def Obligations.EiThenDiNeverEnables : Prop :=
  ∀ s : State, Fetches s [0xFB] → s.intc.ime = false → s.intc.pe = .idle →
    ∃ t : State, step s = .next t ∧ t.intc.ime = false ∧ t.intc.pe = .due ∧
      t.regs = { s.regs with pc := s.regs.pc + 1 } ∧
      (Fetches t [0xF3] →
        ∃ u : State, step t = .next u ∧ u.intc.ime = false ∧ u.intc.pe = .idle ∧
          u.regs = { s.regs with pc := s.regs.pc + 2 })

/-- R316: interrupt entry. The push is made first; then only bit i of the IF it left is cleared, IME is cleared, PC is
the vector, the halted state ends, and no tick is charged (the spec's decision D12). A push that raises leaves SP
lowered and IF, IME, PC and the halted state as they were. -/
def Obligations.DispatchEntersTheVector : Prop :=
  ∀ (s : State) (i : IrqSource),
    (¬ IsFatal (s.regs.sp - 2) → ¬ IsFatal (s.regs.sp - 2 + 1) →
      ∃ t u : State, dispatch i s = .next t ∧ StoredWord s u (s.regs.sp - 2) s.regs.pc ∧
        t.regs = { s.regs with sp := s.regs.sp - 2, pc := BitVec.ofNat 16 (0x0040 + 8 * i.bit) } ∧
        (∀ j, j < 8 → t.intc.iflag.getLsbD j = (u.intc.iflag.getLsbD j && decide (j ≠ i.bit))) ∧
        t.intc.ime = false ∧ t.halted = false ∧ t.intc.ie = u.intc.ie ∧ t.intc.pe = s.intc.pe ∧
        t.intc.pd = s.intc.pd ∧ t.timer = u.timer ∧ t.fault = s.fault ∧
        ∀ a, a ≠ 0xFF0F → busRead t a = busRead u a) ∧
    (IsFatal (s.regs.sp - 2) →
      dispatch i s = .next { s.setSp (s.regs.sp - 2) with fault := some (.busAccessError (s.regs.sp - 2) .write) }) ∧
    (¬ IsFatal (s.regs.sp - 2) → IsFatal (s.regs.sp - 2 + 1) →
      ∃ t : State, dispatch i s = .next t ∧ t.fault = some (.busAccessError (s.regs.sp - 2 + 1) .write) ∧
        t.regs = { s.regs with sp := s.regs.sp - 2 } ∧ t.intc = s.intc ∧ t.halted = s.halted)

/-- R310, R311, R313, R315: the scan dispatches the first source, in the order of the IE and IF bits, whose two bits
are both set, and no other; every other request stays, but where a byte of the push is a store to IF; with IME false
after the countdowns there is no scan. -/
def Obligations.ScanServesLowestPending : Prop :=
  ([IrqSource.vblank, .lcdStat, .timer, .serial, .joypad].map fun i => (i.bit, i.vector)) =
    [(0, 0x0040), (1, 0x0048), (2, 0x0050), (3, 0x0058), (4, 0x0060)] ∧
  (∀ (s : State) (i : IrqSource), s.intc.ie.getLsbD i.bit = true → s.intc.iflag.getLsbD i.bit = true →
    (∀ j : Nat, j < i.bit → ¬ (s.intc.ie.getLsbD j = true ∧ s.intc.iflag.getLsbD j = true)) →
    scan s = dispatch i s ∧
    ∀ t, scan s = .next t → s.regs.sp - 2 ≠ 0xFF0F → s.regs.sp - 1 ≠ 0xFF0F →
      ∀ j, j ≠ i.bit → t.intc.iflag.getLsbD j = s.intc.iflag.getLsbD j) ∧
  (∀ s : State, (∀ j : Nat, j < 5 → ¬ (s.intc.ie.getLsbD j = true ∧ s.intc.iflag.getLsbD j = true)) →
    scan s = .next s) ∧
  (∀ s : State, (countdowns s).intc.ime = false → interruptPhase s = .next (countdowns s)) ∧
  (∀ s : State, (countdowns s).intc.ime = true → interruptPhase s = scan (countdowns s))

/-! ## The timer (60_exceptions.md R330 to R332) -/

/-- Ticks between two increments of TIMA for each clock select (R25, R330). -/
def timerPeriod (tac : Byte) : Nat :=
  if tac.toNat % 4 = 0 then 1024 else if tac.toNat % 4 = 1 then 16 else if tac.toNat % 4 = 2 then 64 else 256

/-- R330, R331, R332: one tick. DIV goes up by one; with TAC[2] set, TIMA counts exactly when DIV leaves the last value
of a period, and at 0xFF it reloads from TMA and requests the timer interrupt in the same tick. The select table is the
spec's decision D6 (log 18). -/
def Obligations.TickCountsOnTheFallingEdge : Prop :=
  ∀ s : State,
    (tick s).timer.div = s.timer.div + 1 ∧
    (s.timer.tac.getLsbD 2 = true → s.timer.div.toNat % timerPeriod s.timer.tac = timerPeriod s.timer.tac - 1 →
      s.timer.tima ≠ 0xFF → (tick s).timer.tima = s.timer.tima + 1 ∧ (tick s).intc = s.intc) ∧
    (s.timer.tac.getLsbD 2 = true → s.timer.div.toNat % timerPeriod s.timer.tac = timerPeriod s.timer.tac - 1 →
      s.timer.tima = 0xFF →
      (tick s).timer.tima = s.timer.tma ∧ (tick s).intc = { s.intc with iflag := s.intc.iflag ||| 0x04 }) ∧
    (s.timer.tac.getLsbD 2 = false ∨ s.timer.div.toNat % timerPeriod s.timer.tac ≠ timerPeriod s.timer.tac - 1 →
      (tick s).timer.tima = s.timer.tima ∧ (tick s).intc = s.intc)

/-- R330: n ticks. DIV advances by n; TIMA by the number of period ends passed, as long as it does not overflow; a
disabled timer leaves TIMA alone. -/
def Obligations.TicksCountPeriodEnds : Prop :=
  ∀ (n : Nat) (s : State),
    (s.timer.tac.getLsbD 2 = false →
      tickN n s = { s with timer := { s.timer with div := s.timer.div + BitVec.ofNat 16 n } }) ∧
    (s.timer.tac.getLsbD 2 = true →
      s.timer.tima.toNat + ((s.timer.div.toNat + n) / timerPeriod s.timer.tac -
        s.timer.div.toNat / timerPeriod s.timer.tac) ≤ 0xFF →
      tickN n s = { s with timer := { s.timer with
        div := s.timer.div + BitVec.ofNat 16 n
        tima := s.timer.tima + BitVec.ofNat 8 ((s.timer.div.toNat + n) / timerPeriod s.timer.tac -
          s.timer.div.toNat / timerPeriod s.timer.tac) } })

/-- R332: "The period between overflows is (256 − TMA) × 2^(b+1) ticks": from a reload at a period's start, IF is not
touched before that many ticks have passed, and then TIMA is TMA again and IF bit 2 is set. -/
def Obligations.OverflowPeriod : Prop :=
  ∀ s : State, s.timer.tac.getLsbD 2 = true → s.timer.tima = s.timer.tma →
    s.timer.div.toNat % timerPeriod s.timer.tac = 0 →
    (∀ n, n < (256 - s.timer.tma.toNat) * timerPeriod s.timer.tac → (tickN n s).intc = s.intc) ∧
    (tickN ((256 - s.timer.tma.toNat) * timerPeriod s.timer.tac) s).intc =
      { s.intc with iflag := s.intc.iflag ||| 0x04 } ∧
    (tickN ((256 - s.timer.tma.toNat) * timerPeriod s.timer.tac) s).timer.tima = s.timer.tma ∧
    (tickN ((256 - s.timer.tma.toNat) * timerPeriod s.timer.tac) s).timer.div.toNat %
      timerPeriod s.timer.tac = 0

/-! ## The bus (20_memory.md) -/

/-- R58, R59, R304: reads and writes raise in the two fatal ranges and nowhere else, with the address and the kind of
the access. The ranges are the spec's decisions D1 and D3 (log 13). -/
def Obligations.FatalRanges : Prop :=
  ∀ (s : State) (a : Word) (v : Byte),
    (IsFatal a → (∀ k, withRead s a k = .next { s with fault := some (.busAccessError a .read) }) ∧
      ∀ k, withWrite s a v k = .next { s with fault := some (.busAccessError a .write) }) ∧
    (¬ IsFatal a → (∃ w, ∀ k, withRead s a k = k w) ∧ ∃ t, ∀ k, withWrite s a v k = k t)

/-- R60, R61, R63: the six registers with an address and the stubs, read and written. The map is the spec's decisions
D1 to D4 (logs 3, 13, 18). -/
def Obligations.DeviceRegisters : Prop :=
  ∀ (s : State) (v : Byte),
    busRead s 0xFF04 = some (s.timer.div.extractLsb' 8 8) ∧ busRead s 0xFF05 = some s.timer.tima ∧
    busRead s 0xFF06 = some s.timer.tma ∧ busRead s 0xFF07 = some s.timer.tac ∧
    busRead s 0xFF0F = some s.intc.iflag ∧ busRead s 0xFFFF = some s.intc.ie ∧
    busWrite s 0xFF04 v = some { s with timer := { s.timer with div := 0 } } ∧
    busWrite s 0xFF05 v = some { s with timer := { s.timer with tima := v } } ∧
    busWrite s 0xFF06 v = some { s with timer := { s.timer with tma := v } } ∧
    busWrite s 0xFF07 v = some { s with timer := { s.timer with tac := v } } ∧
    busWrite s 0xFF0F v = some { s with intc := { s.intc with iflag := v } } ∧
    busWrite s 0xFFFF v = some { s with intc := { s.intc with ie := v } } ∧
    ∀ a, IsStub a → busRead s a = some s.stubRead ∧ busWrite s a v = some s

/-- R51, R53 to R63, R69: every byte store outside the fatal ranges completes and does what `Stored` says. -/
def Obligations.ByteStoreEffect : Prop :=
  ∀ (s : State) (a : Word) (v : Byte), ¬ IsFatal a →
    ∃ t : State, busWrite s a v = some t ∧ t.regs = s.regs ∧ Stored s t a v

/-- R66: a word stored in RAM is read back by two byte reads, low byte first, and by one word read. -/
def Obligations.WordsAreLittleEndian : Prop :=
  ∀ (s : State) (a v : Word), IsRam a → IsRam (a + 1) →
    ∃ t : State, withWrite16 s a v .next = .next t ∧
      busRead t a = some (v.extractLsb' 0 8) ∧ busRead t (a + 1) = some (v.extractLsb' 8 8) ∧
      ∀ k, withRead16 t a k = k v

/-! ## Registers and frames (10_state.md) -/

/-- R11: a pair is its halves, and a write of a pair writes both and reads back. A write of AF masks F[3:0] (R13). -/
def Obligations.PairsAreViews : Prop :=
  ∀ (g : Regs) (v : Word),
    g.bc = g.b ++ g.c ∧ g.de = g.d ++ g.e ∧ g.hl = g.h ++ g.l ∧ g.af = g.a ++ g.f ∧
    g.setBc v = { g with b := v.extractLsb' 8 8, c := v.extractLsb' 0 8 } ∧ (g.setBc v).bc = v ∧
    g.setDe v = { g with d := v.extractLsb' 8 8, e := v.extractLsb' 0 8 } ∧ (g.setDe v).de = v ∧
    g.setHl v = { g with h := v.extractLsb' 8 8, l := v.extractLsb' 0 8 } ∧ (g.setHl v).hl = v ∧
    g.setAf v = { g with a := v.extractLsb' 8 8, f := v.extractLsb' 4 4 ++ 0#4 } ∧ (g.setAf v).af = v &&& 0xFFF0

/-- Control transfers (R15, 45_control_flow.md). -/
def movesPc (i : Instr) : Bool :=
  match i with
  | .jpA16 _ | .jpCc _ _ | .jpHl | .jrR8 _ | .jrCc _ _ | .callA16 _ | .callCc _ _ | .ret | .retCc _ | .reti
  | .rst _ => true
  | _ => false

/-- The writers of SP (R14). -/
def movesSp (i : Instr) : Bool :=
  match i with
  | .ldRrD16 .sp _ | .ldSpHl | .incRr .sp | .decRr .sp | .addSpR8 _ | .pushRr _ | .popRr _ | .popAf
  | .callA16 _ | .callCc _ _ | .ret | .retCc _ | .reti | .rst _ => true
  | _ => false

/-- The instructions with `- - - -` in the table of R16, as an opcode row: no flag is theirs to write. -/
def keepsFlags (i : Instr) : Bool :=
  match i with
  | .ldRR _ _ | .ldRHl _ | .ldHlR _ | .ldRD8 _ _ | .ldHlD8 _ | .ldABc | .ldADe | .ldBcA | .ldDeA | .ldHliA | .ldHldA
  | .ldAHli | .ldAHld | .ldhA8A _ | .ldhAA8 _ | .ldCA | .ldAC | .ldA16A _ | .ldAA16 _
  | .ldRrD16 _ _ | .ldA16Sp _ | .ldSpHl | .pushRr _ | .popRr _ | .incRr _ | .decRr _
  | .resR _ _ | .resHl _ | .setR _ _ | .setHl _
  | .jpA16 _ | .jpCc _ _ | .jpHl | .jrR8 _ | .jrCc _ _ | .callA16 _ | .callCc _ _ | .ret | .retCc _ | .reti | .rst _
  | .nop | .stop _ | .halt | .di | .ei | .illegal _ => true
  | _ => false

/-- The instructions with a write in the table of R68. -/
def storesBytes (i : Instr) : Bool :=
  match i with
  | .ldHlR _ | .ldHlD8 _ | .ldBcA | .ldDeA | .ldHliA | .ldHldA | .ldhA8A _ | .ldCA | .ldA16A _
  | .incHl | .decHl | .rlcHl | .rrcHl | .rlHl | .rrHl | .slaHl | .sraHl | .swapHl | .srlHl | .resHl _ | .setHl _
  | .pushRr _ | .callA16 _ | .callCc _ _ | .rst _ | .ldA16Sp _ => true
  | _ => false

/-- R14, R15, R16, R68: only a control transfer moves PC from past the instruction, only the named instructions move
SP, the flagless instructions keep F, and only the storing ones change a byte of the address space. The prefix byte
stands for an instruction it selects and is left out. -/
def Obligations.OnlyNamedInstructionsWrite : Prop :=
  ∀ (i : Instr) (s t : State), i ≠ .prefixCb → exec i s = .next t →
    (movesPc i = false → t.regs.pc = s.regs.pc) ∧
    (movesSp i = false → t.regs.sp = s.regs.sp) ∧
    (keepsFlags i = true → t.regs.f = s.regs.f) ∧
    (storesBytes i = false → (∀ a, busRead t a = busRead s a) ∧ t.timer = s.timer)

/-- R17, R18, R19, R22 to R25: IME is written by RETI alone, the countdowns by EI, DI and RETI, the halted state by
HALT; no instruction moves DIV except by clearing it, and no instruction touches STUB_READ or the host's requests. -/
def Obligations.OnlyNamedInstructionsWriteControl : Prop :=
  ∀ (i : Instr) (s t : State), exec i s = .next t →
    (i ≠ .reti → t.intc.ime = s.intc.ime) ∧
    (i ≠ .ei → i ≠ .di → i ≠ .reti → t.intc.pe = s.intc.pe ∧ t.intc.pd = s.intc.pd) ∧
    (i ≠ .halt → t.halted = s.halted) ∧
    (t.timer.div = s.timer.div ∨ t.timer.div = 0) ∧
    t.stubRead = s.stubRead ∧ t.requests = s.requests

/-! ## 8-bit loads (40_load8.md) -/

/-- R120, R123. -/
def Obligations.RegisterLoads : Prop :=
  ∀ (s : State) (dst src : Reg8) (n : Byte),
    (∃ t, exec (.ldRR dst src) s = .next t ∧ t.reg dst = s.reg src ∧ OnlyReg dst s t ∧ StoresNothing s t) ∧
    (∃ t, exec (.ldRD8 dst n) s = .next t ∧ t.reg dst = n ∧ OnlyReg dst s t ∧ StoresNothing s t)

/-- The destination and the address of each load of a byte (R121, R125, R126, R134, R136, R138). -/
def loadForm (i : Instr) (s : State) : Option (Reg8 × Word) :=
  match i with
  | .ldRHl dst => some (dst, s.hl)
  | .ldABc => some (.a, s.regs.bc)
  | .ldADe => some (.a, s.regs.de)
  | .ldhAA8 n => some (.a, ioPage n)
  | .ldAC => some (.a, ioPage s.regs.c)
  | .ldAA16 nn => some (.a, nn)
  | _ => none

/-- R121, R125, R126, R134, R136, R138; and R131, R132, whose HL moves by one after the transfer. -/
def Obligations.MemoryLoads : Prop :=
  (∀ (i : Instr) (s : State) (dst : Reg8) (a : Word), loadForm i s = some (dst, a) → ¬ IsFatal a →
    ∃ v t, busRead s a = some v ∧ exec i s = .next t ∧ t.reg dst = v ∧ OnlyReg dst s t ∧ StoresNothing s t) ∧
  (∀ s : State, ¬ IsFatal s.hl →
    ∃ v t u, busRead s s.hl = some v ∧
      exec .ldAHli s = .next t ∧ t.regs = { s.regs with a := v, h := hi8 (s.hl + 1), l := lo8 (s.hl + 1) } ∧
      StoresNothing s t ∧
      exec .ldAHld s = .next u ∧ u.regs = { s.regs with a := v, h := hi8 (s.hl - 1), l := lo8 (s.hl - 1) } ∧
      StoresNothing s u)

/-- The address and the byte of each store of a byte (R122, R124, R127, R128, R133, R135, R137). -/
def storeForm (i : Instr) (s : State) : Option (Word × Byte) :=
  match i with
  | .ldHlR r => some (s.hl, s.reg r)
  | .ldHlD8 n => some (s.hl, n)
  | .ldBcA => some (s.regs.bc, s.regs.a)
  | .ldDeA => some (s.regs.de, s.regs.a)
  | .ldhA8A n => some (ioPage n, s.regs.a)
  | .ldCA => some (ioPage s.regs.c, s.regs.a)
  | .ldA16A nn => some (nn, s.regs.a)
  | _ => none

/-- R122, R124, R127, R128, R133, R135, R137; and R129, R130, which store at the old HL and then move it by one. -/
def Obligations.ByteStores : Prop :=
  (∀ (i : Instr) (s : State) (a : Word) (v : Byte), storeForm i s = some (a, v) → ¬ IsFatal a →
    ∃ t, exec i s = .next t ∧ t.regs = s.regs ∧ Stored s t a v) ∧
  (∀ s : State, ¬ IsFatal s.hl →
    ∃ t u, exec .ldHliA s = .next t ∧ Stored s t s.hl s.regs.a ∧
      t.regs = { s.regs with h := hi8 (s.hl + 1), l := lo8 (s.hl + 1) } ∧
      exec .ldHldA s = .next u ∧ Stored s u s.hl s.regs.a ∧
      u.regs = { s.regs with h := hi8 (s.hl - 1), l := lo8 (s.hl - 1) })

/-! ## 16-bit loads, the stack, 16-bit arithmetic (41_load16_stack.md, 43_alu16.md) -/

/-- R150, R152, R221, R222: a 16-bit register takes the value; every other register, and every flag, is kept. -/
def Obligations.PairWrites : Prop :=
  ∀ (s : State) (p : Reg16) (nn : Word),
    let only (q : Reg16) (t : State) : Prop :=
      (∀ r, r ≠ q → t.reg16 r = s.reg16 r) ∧ t.regs.a = s.regs.a ∧ t.regs.f = s.regs.f ∧ t.regs.pc = s.regs.pc ∧
      StoresNothing s t
    (∃ t, exec (.ldRrD16 p nn) s = .next t ∧ t.reg16 p = nn ∧ only p t) ∧
    (∃ t, exec .ldSpHl s = .next t ∧ t.reg16 .sp = s.reg16 .hl ∧ only .sp t) ∧
    (∃ t, exec (.incRr p) s = .next t ∧ t.reg16 p = s.reg16 p + 1 ∧ only p t) ∧
    (∃ t, exec (.decRr p) s = .next t ∧ t.reg16 p = s.reg16 p - 1 ∧ only p t)

/-- R153, R220, R224: SP plus the sign-extended offset; Z and N cleared, H and C the carries of the low bytes, the
offset's byte taken unsigned. -/
def Obligations.StackPointerSums : Prop :=
  ∀ (s : State) (e : Byte),
    let sum := BitVec.ofInt 16 ((s.regs.sp.toNat : Int) + e.toInt)
    let h := decide (s.regs.sp.toNat % 16 + e.toNat % 16 > 15)
    let c := decide (s.regs.sp.toNat % 256 + e.toNat > 255)
    (∃ t, exec (.addSpR8 e) s = .next t ∧ t.regs.sp = sum ∧ FlagsAre s t false false h c ∧
      (∀ r, t.reg r = s.reg r) ∧ t.regs.pc = s.regs.pc ∧ StoresNothing s t) ∧
    (∃ t, exec (.ldHlSpR8 e) s = .next t ∧ t.hl = sum ∧ FlagsAre s t false false h c ∧
      (∀ r, r ≠ .h → r ≠ .l → t.reg r = s.reg r) ∧ t.regs.sp = s.regs.sp ∧ t.regs.pc = s.regs.pc ∧
      StoresNothing s t)

/-- R223: the sum modulo 2^16; Z kept, N cleared, H the carry out of bit 11, C out of bit 15. -/
def Obligations.AddsToHl : Prop :=
  ∀ (s : State) (p : Reg16),
    ∃ t, exec (.addHlRr p) s = .next t ∧ t.hl = s.hl + s.reg16 p ∧
      FlagsAre s t s.fZ false (decide (s.hl.toNat % 4096 + (s.reg16 p).toNat % 4096 > 4095))
        (decide (s.hl.toNat + (s.reg16 p).toNat > 65535)) ∧
      (∀ r, r ≠ .h → r ≠ .l → t.reg r = s.reg r) ∧ t.regs.sp = s.regs.sp ∧ t.regs.pc = s.regs.pc ∧
      StoresNothing s t

/-- R151, R154, R157: the word is stored low byte first, at nn or at SP − 2, which becomes SP. -/
def Obligations.WordStores : Prop :=
  (∀ (s : State) (nn : Word), ¬ IsFatal nn → ¬ IsFatal (nn + 1) →
    ∃ t, exec (.ldA16Sp nn) s = .next t ∧ t.regs = s.regs ∧ StoredWord s t nn s.regs.sp) ∧
  (∀ (s : State) (p : StackPair), ¬ IsFatal (pushAddress s) → ¬ IsFatal (pushAddress s + 1) →
    ∃ t, exec (.pushRr p) s = .next t ∧ t.regs = { s.regs with sp := s.regs.sp - 2 } ∧
      StoredWord s t (pushAddress s) (s.regs.getStack p))

/-- R155, R156, R158: the low byte comes from SP, the high byte from SP + 1, SP goes up by two; AF loses F[3:0]. -/
def Obligations.Pops : Prop :=
  ∀ s : State, ¬ IsFatal s.regs.sp → ¬ IsFatal (s.regs.sp + 1) →
    ∃ lo hi, busRead s s.regs.sp = some lo ∧ busRead s (s.regs.sp + 1) = some hi ∧
      (∃ t, exec (.popRr .bc) s = .next t ∧
        t.regs = { s.regs with b := hi, c := lo, sp := s.regs.sp + 2 } ∧ StoresNothing s t) ∧
      (∃ t, exec (.popRr .de) s = .next t ∧
        t.regs = { s.regs with d := hi, e := lo, sp := s.regs.sp + 2 } ∧ StoresNothing s t) ∧
      (∃ t, exec (.popRr .hl) s = .next t ∧
        t.regs = { s.regs with h := hi, l := lo, sp := s.regs.sp + 2 } ∧ StoresNothing s t) ∧
      (∃ t, exec .popAf s = .next t ∧
        t.regs = { s.regs with a := hi, f := lo &&& 0xF0, sp := s.regs.sp + 2 } ∧ StoresNothing s t)

/-- R158: a pop after a push, with nothing between, returns the word and restores SP, where both bytes have RAM. -/
def Obligations.PopAfterPushRestores : Prop :=
  ∀ s : State, IsRam (s.regs.sp - 2) → IsRam (s.regs.sp - 2 + 1) →
    (∃ t u, exec (.pushRr .bc) s = .next t ∧ exec (.popRr .de) t = .next u ∧ u.regs.de = s.regs.bc ∧
      u.regs.bc = s.regs.bc ∧ u.regs.sp = s.regs.sp) ∧
    (∃ t u, exec (.pushRr .af) s = .next t ∧ exec .popAf t = .next u ∧ u.regs.a = s.regs.a ∧
      u.regs.f = s.regs.f &&& 0xF0 ∧ u.regs.sp = s.regs.sp)

/-! ## 8-bit arithmetic and logic (42_alu8.md) -/

/-- R170: `Add8` in integers, its worked values, and against bit analysis: the sum has nine bits, and the half-carry
is the carry into bit 4. -/
def Obligations.AddHelperMatchesBits : Prop :=
  (∀ (a b : Byte) (cin : Bool),
    let r := add8 a b cin
    let sum : BitVec 9 := a.zeroExtend 9 + b.zeroExtend 9 + (BitVec.ofBool cin).zeroExtend 9
    r.res.toNat = (a.toNat + b.toNat + cin.toNat) % 256 ∧
    r.h = decide ((a.extractLsb' 0 4).toNat + (b.extractLsb' 0 4).toNat + cin.toNat > 0xF) ∧
    r.c = decide (a.toNat + b.toNat + cin.toNat > 0xFF) ∧
    r.res = sum.extractLsb' 0 8 ∧ r.c = sum.getLsbD 8 ∧ r.h = (a ^^^ b ^^^ r.res).getLsbD 4) ∧
  add8 0xFF 0x01 false = { res := 0x00, h := true, c := true } ∧
  add8 0xFF 0xFF true = { res := 0xFF, h := true, c := true }

/-- R171, whose formulas the spec marks as general knowledge: `Sub8` in integers, its worked values, and against bit
analysis. -/
def Obligations.SubHelperMatchesBits : Prop :=
  (∀ (a b : Byte) (cin : Bool),
    let r := sub8 a b cin
    let diff : BitVec 9 := a.zeroExtend 9 - b.zeroExtend 9 - (BitVec.ofBool cin).zeroExtend 9
    (r.res.toNat : Int) = ((a.toNat : Int) - b.toNat - cin.toNat) % 256 ∧
    r.h = decide ((a.extractLsb' 0 4).toNat < (b.extractLsb' 0 4).toNat + cin.toNat) ∧
    r.c = decide (a.toNat < b.toNat + cin.toNat) ∧
    r.res = diff.extractLsb' 0 8 ∧ r.c = diff.getLsbD 8 ∧ r.h = (a ^^^ b ^^^ r.res).getLsbD 4) ∧
  sub8 0x00 0x01 false = { res := 0xFF, h := true, c := true } ∧
  sub8 0x10 0x01 false = { res := 0x0F, h := true, c := false } ∧
  sub8 0x00 0xFF true = { res := 0x00, h := true, c := true } ∧
  sub8 0x3E 0x3E false = { res := 0x00, h := false, c := false }

/-- The operation and the operand of each accumulator instruction; the (HL) forms have one where HL can be read. -/
def aluForm (i : Instr) (s : State) : Option (AluOp × Byte) :=
  match i with
  | .addR r => some (.add, s.reg r)
  | .addHl => (busRead s s.hl).map (AluOp.add, ·)
  | .addD8 n => some (.add, n)
  | .adcR r => some (.adc, s.reg r)
  | .adcHl => (busRead s s.hl).map (AluOp.adc, ·)
  | .adcD8 n => some (.adc, n)
  | .subR r => some (.sub, s.reg r)
  | .subHl => (busRead s s.hl).map (AluOp.sub, ·)
  | .subD8 n => some (.sub, n)
  | .sbcR r => some (.sbc, s.reg r)
  | .sbcHl => (busRead s s.hl).map (AluOp.sbc, ·)
  | .sbcD8 n => some (.sbc, n)
  | .andR r => some (.and, s.reg r)
  | .andHl => (busRead s s.hl).map (AluOp.and, ·)
  | .andD8 n => some (.and, n)
  | .xorR r => some (.xor, s.reg r)
  | .xorHl => (busRead s s.hl).map (AluOp.xor, ·)
  | .xorD8 n => some (.xor, n)
  | .orR r => some (.or, s.reg r)
  | .orHl => (busRead s s.hl).map (AluOp.or, ·)
  | .orD8 n => some (.or, n)
  | .cpR r => some (.cp, s.reg r)
  | .cpHl => (busRead s s.hl).map (AluOp.cp, ·)
  | .cpD8 n => some (.cp, n)
  | _ => none

/-- R172 to R177: ADD and ADC, with the carry of R170 in integers. -/
def Obligations.Additions : Prop :=
  ∀ (i : Instr) (s : State) (k : AluOp) (v : Byte) (cin : Nat), aluForm i s = some (k, v) →
    (k = .add ∧ cin = 0 ∨ k = .adc ∧ cin = s.fC.toNat) →
    ∃ t, exec i s = .next t ∧ t.regs.a = BitVec.ofNat 8 (s.regs.a.toNat + v.toNat + cin) ∧
      FlagsAre s t (decide ((s.regs.a.toNat + v.toNat + cin) % 256 = 0)) false
        (decide (s.regs.a.toNat % 16 + v.toNat % 16 + cin > 15)) (decide (s.regs.a.toNat + v.toNat + cin > 255)) ∧
      OnlyRegAndFlags .a s t ∧ StoresNothing s t

/-- R178 to R183, R193 to R195: SUB, SBC and CP, with the borrow of R171 in integers; CP keeps A. -/
def Obligations.Subtractions : Prop :=
  ∀ (i : Instr) (s : State) (k : AluOp) (v : Byte) (cin : Nat), aluForm i s = some (k, v) →
    ((k = .sub ∨ k = .cp) ∧ cin = 0 ∨ k = .sbc ∧ cin = s.fC.toNat) →
    ∃ t, exec i s = .next t ∧
      t.regs.a = (if k = .cp then s.regs.a else BitVec.ofNat 8 (s.regs.a.toNat + 512 - v.toNat - cin)) ∧
      FlagsAre s t (decide ((s.regs.a.toNat + 512 - v.toNat - cin) % 256 = 0)) true
        (decide (s.regs.a.toNat % 16 < v.toNat % 16 + cin)) (decide (s.regs.a.toNat < v.toNat + cin)) ∧
      OnlyRegAndFlags .a s t ∧ StoresNothing s t

/-- R184 to R192: AND, XOR and OR, bit by bit; H is set by AND alone. -/
def Obligations.LogicOperations : Prop :=
  ∀ (i : Instr) (s : State) (k : AluOp) (v : Byte), aluForm i s = some (k, v) → (k = .and ∨ k = .xor ∨ k = .or) →
    ∃ t, exec i s = .next t ∧
      (∀ j, t.regs.a.getLsbD j =
        if k = .and then s.regs.a.getLsbD j && v.getLsbD j
        else if k = .xor then xor (s.regs.a.getLsbD j) (v.getLsbD j)
        else s.regs.a.getLsbD j || v.getLsbD j) ∧
      FlagsAre s t (decide (t.regs.a = 0)) false (decide (k = .and)) false ∧
      OnlyRegAndFlags .a s t ∧ StoresNothing s t

/-- R196 to R199: INC and DEC of a register or of the byte at HL; H from the low nibble of the old value, C kept. -/
def Obligations.IncrementsAndDecrements : Prop :=
  (∀ (s : State) (dst : Reg8),
    (∃ t, exec (.incR dst) s = .next t ∧ t.reg dst = s.reg dst + 1 ∧
      FlagsAre s t (decide (s.reg dst = 0xFF)) false (decide ((s.reg dst).toNat % 16 = 15)) s.fC ∧
      OnlyRegAndFlags dst s t ∧ StoresNothing s t) ∧
    (∃ t, exec (.decR dst) s = .next t ∧ t.reg dst = s.reg dst - 1 ∧
      FlagsAre s t (decide (s.reg dst = 0x01)) true (decide ((s.reg dst).toNat % 16 = 0)) s.fC ∧
      OnlyRegAndFlags dst s t ∧ StoresNothing s t)) ∧
  (∀ s : State, ¬ IsFatal s.hl →
    ∃ v, busRead s s.hl = some v ∧
      (∃ t, exec .incHl s = .next t ∧ Stored s t s.hl (v + 1) ∧
        FlagsAre s t (decide (v = 0xFF)) false (decide (v.toNat % 16 = 15)) s.fC ∧ OnlyFlags s t) ∧
      (∃ t, exec .decHl s = .next t ∧ Stored s t s.hl (v - 1) ∧
        FlagsAre s t (decide (v = 0x01)) true (decide (v.toNat % 16 = 0)) s.fC ∧ OnlyFlags s t))

/-- R200: DAA corrects by 0x06 and 0x60 from the flags and, after an addition, the old A; N is kept, H cleared, C set
by a 0x60 correction and else kept. The algorithm is the spec's decision D27 (log 21). -/
def Obligations.DecimalAdjust : Prop :=
  ∀ s : State,
    let low := s.fH = true ∨ (s.fN = false ∧ s.regs.a.toNat % 16 > 9)
    let high := s.fC = true ∨ (s.fN = false ∧ s.regs.a.toNat > 0x99)
    ∃ (t : State) (corr : Nat), exec .daa s = .next t ∧
      (low → high → corr = 0x66) ∧ (low → ¬ high → corr = 0x06) ∧ (¬ low → high → corr = 0x60) ∧
      (¬ low → ¬ high → corr = 0) ∧
      t.regs.a = BitVec.ofNat 8 (if s.fN = true then s.regs.a.toNat + 256 - corr else s.regs.a.toNat + corr) ∧
      (t.fZ = true ↔ t.regs.a = 0) ∧ t.fN = s.fN ∧ t.fH = false ∧ (t.fC = true ↔ high) ∧
      t.regs.f.extractLsb' 0 4 = s.regs.f.extractLsb' 0 4 ∧ OnlyRegAndFlags .a s t ∧ StoresNothing s t

/-- The packed BCD byte of a number below 100. -/
def bcd (n : Nat) : Byte := BitVec.ofNat 8 (n / 10 * 16 + n % 10)

/-- R200, R368: directly after an 8-bit addition or subtraction of packed BCD, DAA leaves the BCD result, and C the
decimal carry or borrow. -/
def Obligations.DecimalAdjustIsBcd : Prop :=
  ∀ (s : State) (x y : Nat), x < 100 → y < 100 → s.regs.a = bcd x →
    (∃ t u, exec (.addD8 (bcd y)) s = .next t ∧ exec .daa t = .next u ∧
      u.regs.a = bcd ((x + y) % 100) ∧ u.fC = decide (x + y ≥ 100)) ∧
    (∃ t u, exec (.subD8 (bcd y)) s = .next t ∧ exec .daa t = .next u ∧
      u.regs.a = bcd ((x + 100 - y) % 100) ∧ u.fC = decide (x < y))

/-- R201, R202, R203: CPL, SCF, CCF. -/
def Obligations.FlagInstructions : Prop :=
  ∀ s : State,
    (∃ t, exec .cpl s = .next t ∧ (∀ j, j < 8 → t.regs.a.getLsbD j = !s.regs.a.getLsbD j) ∧
      FlagsAre s t s.fZ true true s.fC ∧ OnlyRegAndFlags .a s t ∧ StoresNothing s t) ∧
    (∃ t, exec .scf s = .next t ∧ FlagsAre s t s.fZ false false true ∧ OnlyFlags s t ∧ StoresNothing s t) ∧
    (∃ t, exec .ccf s = .next t ∧ FlagsAre s t s.fZ false false (!s.fC) ∧ OnlyFlags s t ∧ StoresNothing s t)

/-! ## Rotates, shifts and bits (44_rotate_shift_bit.md) -/

/-- Bit j of the result column of R230. -/
def rotBit (k : RotOp) (v : Byte) (cin : Bool) (j : Nat) : Bool :=
  match k with
  | .rlc => v.getLsbD ((j + 7) % 8)
  | .rrc => v.getLsbD ((j + 1) % 8)
  | .rl => if j = 0 then cin else v.getLsbD (j - 1)
  | .rr => if j = 7 then cin else v.getLsbD (j + 1)
  | .sla => if j = 0 then false else v.getLsbD (j - 1)
  | .sra => if j = 7 then v.getLsbD 7 else v.getLsbD (j + 1)
  | .swap => v.getLsbD ((j + 4) % 8)
  | .srl => if j = 7 then false else v.getLsbD (j + 1)

/-- The carry-out column of R230. -/
def rotOut (k : RotOp) (v : Byte) : Bool :=
  if k = .swap then false else if k = .rlc ∨ k = .rl ∨ k = .sla then v.getLsbD 7 else v.getLsbD 0

/-- R231 to R234: the accumulator rotates force Z to 0. -/
def Obligations.AccumulatorRotates : Prop :=
  ∀ (s : State) (i : Instr) (k : RotOp),
    (i, k) ∈ [(Instr.rlca, RotOp.rlc), (.rrca, .rrc), (.rla, .rl), (.rra, .rr)] →
    ∃ t, exec i s = .next t ∧ (∀ j, j < 8 → t.regs.a.getLsbD j = rotBit k s.regs.a s.fC j) ∧
      FlagsAre s t false false false (rotOut k s.regs.a) ∧ OnlyRegAndFlags .a s t ∧ StoresNothing s t

/-- The operation and the register of each rotate, shift or SWAP of a register (R235 to R249). -/
def rotForm (i : Instr) : Option (RotOp × Reg8) :=
  match i with
  | .rlcR r => some (.rlc, r)
  | .rrcR r => some (.rrc, r)
  | .rlR r => some (.rl, r)
  | .rrR r => some (.rr, r)
  | .slaR r => some (.sla, r)
  | .sraR r => some (.sra, r)
  | .swapR r => some (.swap, r)
  | .srlR r => some (.srl, r)
  | _ => none

/-- The operation of each rotate, shift or SWAP of the byte at HL (R236 to R250). -/
def rotAtHlForm (i : Instr) : Option RotOp :=
  match i with
  | .rlcHl => some .rlc
  | .rrcHl => some .rrc
  | .rlHl => some .rl
  | .rrHl => some .rr
  | .slaHl => some .sla
  | .sraHl => some .sra
  | .swapHl => some .swap
  | .srlHl => some .srl
  | _ => none

/-- R235, R237, R239, R241, R243, R245, R247, R249. -/
def Obligations.RegisterRotates : Prop :=
  ∀ (s : State) (i : Instr) (k : RotOp) (r : Reg8), rotForm i = some (k, r) →
    ∃ t, exec i s = .next t ∧ (∀ j, j < 8 → (t.reg r).getLsbD j = rotBit k (s.reg r) s.fC j) ∧
      FlagsAre s t (decide (t.reg r = 0)) false false (rotOut k (s.reg r)) ∧ OnlyRegAndFlags r s t ∧
      StoresNothing s t

/-- R236, R238, R240, R242, R244, R246, R248, R250: read and written at the same address. -/
def Obligations.MemoryRotates : Prop :=
  ∀ (s : State) (i : Instr) (k : RotOp), rotAtHlForm i = some k → ¬ IsFatal s.hl →
    ∃ v w t, busRead s s.hl = some v ∧ exec i s = .next t ∧ Stored s t s.hl w ∧
      (∀ j, j < 8 → w.getLsbD j = rotBit k v s.fC j) ∧
      FlagsAre s t (decide (w = 0)) false false (rotOut k v) ∧ OnlyFlags s t

/-- R251, R252: Z is the complement of the bit, N cleared, H set, C kept; nothing is stored. -/
def Obligations.BitTests : Prop :=
  (∀ (s : State) (b : Fin 8) (r : Reg8),
    ∃ t, exec (.bitR b r) s = .next t ∧ FlagsAre s t (!(s.reg r).getLsbD b) false true s.fC ∧ OnlyFlags s t ∧
      StoresNothing s t) ∧
  (∀ (s : State) (b : Fin 8), ¬ IsFatal s.hl →
    ∃ v t, busRead s s.hl = some v ∧ exec (.bitHl b) s = .next t ∧
      FlagsAre s t (!v.getLsbD b) false true s.fC ∧ OnlyFlags s t ∧ StoresNothing s t)

/-- R253 to R256: RES and SET write bit b and no other, and no flag. -/
def Obligations.BitWrites : Prop :=
  (∀ (s : State) (b : Fin 8) (r : Reg8),
    (∃ t, exec (.resR b r) s = .next t ∧
      (∀ j, (t.reg r).getLsbD j = if j = b.val then false else (s.reg r).getLsbD j) ∧ OnlyReg r s t ∧
      StoresNothing s t) ∧
    (∃ t, exec (.setR b r) s = .next t ∧
      (∀ j, (t.reg r).getLsbD j = if j = b.val then true else (s.reg r).getLsbD j) ∧ OnlyReg r s t ∧
      StoresNothing s t)) ∧
  (∀ (s : State) (b : Fin 8), ¬ IsFatal s.hl →
    ∃ v, busRead s s.hl = some v ∧
      (∃ w t, exec (.resHl b) s = .next t ∧ Stored s t s.hl w ∧ t.regs = s.regs ∧
        ∀ j, w.getLsbD j = if j = b.val then false else v.getLsbD j) ∧
      (∃ w t, exec (.setHl b) s = .next t ∧ Stored s t s.hl w ∧ t.regs = s.regs ∧
        ∀ j, w.getLsbD j = if j = b.val then true else v.getLsbD j))

/-! ## Control flow (45_control_flow.md) -/

/-- R270. -/
def holdsCond (s : State) (cc : Cond) : Prop :=
  match cc with
  | .nz => s.regs.f.getLsbD 7 = false
  | .z => s.regs.f.getLsbD 7 = true
  | .nc => s.regs.f.getLsbD 4 = false
  | .c => s.regs.f.getLsbD 4 = true

/-- R271 to R275: PC is the target, relative offsets counted from past the instruction; a transfer not taken changes
nothing. -/
def Obligations.Jumps : Prop :=
  ∀ (s : State) (cc : Cond) (nn : Word) (e : Byte),
    let goesTo (i : Instr) (pc : Word) : Prop :=
      ∃ t, exec i s = .next t ∧ t.regs = { s.regs with pc := pc } ∧ StoresNothing s t
    let relative := BitVec.ofInt 16 ((s.regs.pc.toNat : Int) + e.toInt)
    goesTo (.jpA16 nn) nn ∧ goesTo .jpHl s.hl ∧ goesTo (.jrR8 e) relative ∧
    (holdsCond s cc → goesTo (.jpCc cc nn) nn ∧ goesTo (.jrCc cc e) relative) ∧
    (¬ holdsCond s cc → exec (.jpCc cc nn) s = .next s ∧ exec (.jrCc cc e) s = .next s)

/-- R276, R277, R281: the PC past the instruction is pushed; the target of RST t is 8 t. A CALL not taken touches
neither SP nor the stack. -/
def Obligations.Calls : Prop :=
  ∀ (s : State) (cc : Cond) (nn : Word) (n : Fin 8),
    let goesTo (i : Instr) (pc : Word) : Prop :=
      ¬ IsFatal (pushAddress s) → ¬ IsFatal (pushAddress s + 1) →
      ∃ t, exec i s = .next t ∧ t.regs = { s.regs with sp := s.regs.sp - 2, pc := pc } ∧
        StoredWord s t (pushAddress s) s.regs.pc
    goesTo (.callA16 nn) nn ∧ goesTo (.rst n) (BitVec.ofNat 16 (8 * n.val)) ∧
    (holdsCond s cc → goesTo (.callCc cc nn) nn) ∧
    (¬ holdsCond s cc → exec (.callCc cc nn) s = .next s)

/-- R278, R279, R280: PC is popped, low byte first; RETI also sets IME at once and clears both countdowns (decision
D14, log 21). A RET not taken touches neither SP nor the stack. -/
def Obligations.Returns : Prop :=
  ∀ (s : State) (cc : Cond),
    (¬ IsFatal s.regs.sp → ¬ IsFatal (s.regs.sp + 1) →
      ∃ lo hi, busRead s s.regs.sp = some lo ∧ busRead s (s.regs.sp + 1) = some hi ∧
        (∃ t, exec .ret s = .next t ∧
          t.regs = { s.regs with sp := s.regs.sp + 2, pc := hi ++ lo } ∧ StoresNothing s t) ∧
        (holdsCond s cc → ∃ t, exec (.retCc cc) s = .next t ∧
          t.regs = { s.regs with sp := s.regs.sp + 2, pc := hi ++ lo } ∧ StoresNothing s t) ∧
        exec .reti s = .next { s with
          regs := { s.regs with sp := s.regs.sp + 2, pc := hi ++ lo }
          intc := { s.intc with ime := true, pe := .idle, pd := .idle } }) ∧
    (¬ holdsCond s cc → exec (.retCc cc) s = .next s)

/-! ## System instructions (46_system.md) -/

/-- R290, R292, R293, R294: NOP changes nothing, HALT only the halted state; EI and DI arm their countdown unless it
runs and clear the other (decision D13, log 15), and IME itself stands. -/
def Obligations.NopHaltEiDi : Prop :=
  ∀ s : State,
    exec .nop s = .next s ∧ exec .halt s = .next { s with halted := true } ∧
    (∃ t, exec .ei s = .next t ∧ t.intc.pe = (if s.intc.pe = .idle then .armed else s.intc.pe) ∧
      t.intc.pd = .idle ∧ t.intc.ime = s.intc.ime ∧ t.intc.ie = s.intc.ie ∧ t.intc.iflag = s.intc.iflag ∧
      t = { s with intc := t.intc }) ∧
    (∃ t, exec .di s = .next t ∧ t.intc.pd = (if s.intc.pd = .idle then .armed else s.intc.pd) ∧
      t.intc.pe = .idle ∧ t.intc.ime = s.intc.ime ∧ t.intc.ie = s.intc.ie ∧ t.intc.iflag = s.intc.iflag ∧
      t = { s with intc := t.intc })

/-- R291, R296, R300, R302, R305: STOP and ILLEGAL latch their fault, with the address of their first byte, and
change nothing else; the next Step stops with it. STOP's fault is the spec's decision D16 (log 21). -/
def Obligations.StopAndIllegalLatch : Prop :=
  (∀ (s : State) (n : Byte), exec (.stop n) s = .next { s with fault := some (.notImplemented 0x10 (s.regs.pc - 2)) } ∧
    step { s with fault := some (.notImplemented 0x10 (s.regs.pc - 2)) } =
      .fault (.notImplemented 0x10 (s.regs.pc - 2))) ∧
  (∀ (s : State) (op : Byte), op ∈ illegalOpcodes →
    exec (.illegal op) s = .next { s with fault := some (.illegalInstruction op (s.regs.pc - 1)) } ∧
    step { s with fault := some (.illegalInstruction op (s.regs.pc - 1)) } =
      .fault (.illegalInstruction op (s.regs.pc - 1)))

/-- R103, R295: the prefix fetches its second byte and is then exactly the instruction the two bytes decode to, with
that instruction's ticks; a second byte at a fatal address raises with PC past the prefix. -/
def Obligations.PrefixRunsTheSecondary : Prop :=
  (∀ (s : State) (op2 : Byte) (i : Instr), busRead s s.regs.pc = some op2 → decode [0xCB, op2] = .instr i [] →
    exec .prefixCb s = exec i (s.setPc (s.regs.pc + 1)) ∧
    ticks .prefixCb s = ticks i (s.setPc (s.regs.pc + 1)) ∧
    ∃ t, exec .prefixCb s = .next t) ∧
  (∀ s : State, IsFatal s.regs.pc →
    exec .prefixCb s = .next { s with fault := some (.busAccessError s.regs.pc .read) })

/-! ## Refused data accesses (60_exceptions.md R300, R304, R306) -/

/-- The address each instruction that reads memory reads first; a conditional return reads only when taken. -/
def readAddress (i : Instr) (s : State) : Option Word :=
  match i with
  | .ldRHl _ | .ldAHli | .ldAHld | .addHl | .adcHl | .subHl | .sbcHl | .andHl | .xorHl | .orHl | .cpHl | .incHl | .decHl
  | .rlcHl | .rrcHl | .rlHl | .rrHl | .slaHl | .sraHl | .swapHl | .srlHl | .bitHl _ | .resHl _ | .setHl _ => some s.hl
  | .ldABc => some s.regs.bc
  | .ldADe => some s.regs.de
  | .ldhAA8 n => some (ioPage n)
  | .ldAC => some (ioPage s.regs.c)
  | .ldAA16 nn => some nn
  | .popRr _ | .popAf | .ret | .reti => some s.regs.sp
  | .retCc cc => if s.cond cc then some s.regs.sp else none
  | _ => none

/-- The address each instruction that only stores stores to first, where it is not a push. -/
def writeAddress (i : Instr) (s : State) : Option Word :=
  match i with
  | .ldHlR _ | .ldHlD8 _ | .ldHliA | .ldHldA => some s.hl
  | .ldBcA => some s.regs.bc
  | .ldDeA => some s.regs.de
  | .ldhA8A n => some (ioPage n)
  | .ldCA => some (ioPage s.regs.c)
  | .ldA16A nn | .ldA16Sp nn => some nn
  | _ => none

/-- The word each push stores; a conditional call pushes only when taken. -/
def pushedWord (i : Instr) (s : State) : Option Word :=
  match i with
  | .pushRr p => some (s.regs.getStack p)
  | .callA16 _ | .rst _ => some s.regs.pc
  | .callCc cc _ => if s.cond cc then some s.regs.pc else none
  | _ => none

/-- R300, R304: where the first access of an instruction that is no push, call or RST is refused, the fault is latched
with that address and nothing else has changed: no register, no flag, no byte. Those three have lowered SP by then:
`Obligations.RefusedStackAccess`. -/
def Obligations.RefusedFirstAccess : Prop :=
  ∀ (i : Instr) (s : State) (a : Word), IsFatal a →
    (readAddress i s = some a → exec i s = .next { s with fault := some (.busAccessError a .read) }) ∧
    (writeAddress i s = some a → exec i s = .next { s with fault := some (.busAccessError a .write) })

/-- R64, R65, R157, R158, R279, R300: a push, call or RST refused at its first byte leaves only SP lowered; one
refused at its second has stored the low byte, as has LD (a16),SP; a pop or a return, RET cc when taken, refused at its
second byte has changed nothing. -/
def Obligations.RefusedStackAccess : Prop :=
  (∀ (i : Instr) (s : State) (v : Word), pushedWord i s = some v →
    (IsFatal (pushAddress s) → exec i s = .next { s with
      regs := { s.regs with sp := pushAddress s }
      fault := some (.busAccessError (pushAddress s) .write) }) ∧
    (¬ IsFatal (pushAddress s) → IsFatal (pushAddress s + 1) →
      ∃ u : State, Stored s u (pushAddress s) (lo8 v) ∧ exec i s = .next { u with
        regs := { s.regs with sp := pushAddress s }
        fault := some (.busAccessError (pushAddress s + 1) .write) })) ∧
  (∀ (s : State) (nn : Word), ¬ IsFatal nn → IsFatal (nn + 1) →
    ∃ u : State, Stored s u nn (lo8 s.regs.sp) ∧ u.regs = s.regs ∧
      exec (.ldA16Sp nn) s = .next { u with fault := some (.busAccessError (nn + 1) .write) }) ∧
  (∀ (i : Instr) (s : State), i ∈ [Instr.popRr .bc, .popRr .de, .popRr .hl, .popAf, .ret, .reti] →
    ¬ IsFatal s.regs.sp → IsFatal (s.regs.sp + 1) →
    exec i s = .next { s with fault := some (.busAccessError (s.regs.sp + 1) .read) }) ∧
  (∀ (s : State) (cc : Cond), holdsCond s cc → ¬ IsFatal s.regs.sp → IsFatal (s.regs.sp + 1) →
    exec (.retCc cc) s = .next { s with fault := some (.busAccessError (s.regs.sp + 1) .read) })
end

