-- ==== Sys2Proof/Laws/Memory.lean ====
section
/-! SUPPORT. The cell list: reading after writing, and the canonical form every operation keeps. -/

namespace Sys2Proof.Machine

@[simp] theorem Memory.read_nil (a : Nat) : Memory.read [] a = Memory.unlisted := rfl

theorem Memory.read_erase (m : Memory) (a x : Nat) :
    (Memory.erase m a).read x = if x = a then Memory.unlisted else m.read x := by
  induction m with
  | nil => simp [Memory.erase]
  | cons c rest ih =>
    obtain ⟨k, v⟩ := c
    unfold Memory.erase at ih ⊢
    by_cases hk : k = a
    · subst hk
      simp only [ne_eq, not_true_eq_false, decide_false, Bool.false_eq_true, not_false_eq_true, List.filter_cons_of_neg, ih]
      by_cases hx : x = k
      · simp [hx]
      · simp [hx, Memory.read, Ne.symm hx]
    · simp only [ne_eq, hk, not_false_eq_true, decide_true, List.filter_cons_of_pos, Memory.read, ih]
      by_cases hx : k = x
      · subst hx; simp [hk]
      · simp [hx]

theorem Memory.read_insert (m : Memory) (a x : Nat) (v : Byte) (h : ∀ c ∈ m, c.1 ≠ a) :
    (Memory.insert m a v).read x = if x = a then v else m.read x := by
  induction m with
  | nil => by_cases hx : a = x <;> simp [Memory.insert, Memory.read, hx, eq_comm]
  | cons c rest ih =>
    obtain ⟨k, w⟩ := c
    have hk : k ≠ a := h (k, w) (by simp)
    have ih := ih fun c hc => h c (by simp [hc])
    unfold Memory.insert
    split
    · by_cases hx : a = x
      · simp [Memory.read, hx]
      · simp [Memory.read, hx, Ne.symm hx]
    · by_cases hx : k = x
      · subst hx; simp [Memory.read, hk]
      · simp [Memory.read, hx, ih]

theorem Memory.erase_no (m : Memory) (a : Nat) : ∀ c ∈ Memory.erase m a, c.1 ≠ a := by
  intro c hc
  simpa using (List.mem_filter.mp hc).2

/-- A read after a write, for every list of cells. -/
theorem Memory.read_write (m : Memory) (a x : Nat) (v : Byte) :
    (Memory.write m a v).read x = if x = a then v else m.read x := by
  unfold Memory.write
  split
  · next h => rw [Memory.read_erase, h]
  · rw [Memory.read_insert _ _ _ _ (Memory.erase_no m a), Memory.read_erase]
    by_cases hx : x = a <;> simp [hx]

@[simp] theorem Memory.read_write_same (m : Memory) (a : Nat) (v : Byte) : (Memory.write m a v).read a = v := by
  simp [Memory.read_write]

theorem Memory.read_write_ne (m : Memory) {a x : Nat} (v : Byte) (h : x ≠ a) :
    (Memory.write m a v).read x = m.read x := by simp [Memory.read_write, h]

/-! ### The canonical form -/

theorem Memory.wf_iff (m : Memory) :
    m.wf = true ↔ m.Pairwise (fun x y => x.1 < y.1) ∧ ∀ c ∈ m, c.2 ≠ Memory.unlisted ∧ Memory.backed c.1 = true := by
  simp [Memory.wf]

@[simp] theorem Memory.wf_nil : Memory.wf [] = true := rfl

theorem Memory.wf_erase {m : Memory} (a : Nat) (h : m.wf = true) : (Memory.erase m a).wf = true := by
  rw [Memory.wf_iff] at h ⊢
  exact ⟨h.1.filter _, fun c hc => h.2 c (List.mem_filter.mp hc).1⟩

theorem Memory.mem_insert {m : Memory} {a : Nat} {v : Byte} {c : Host.Cell} :
    c ∈ Memory.insert m a v ↔ c = (a, v) ∨ c ∈ m := by
  induction m with
  | nil => simp [Memory.insert]
  | cons d rest ih =>
    unfold Memory.insert
    split
    · simp
    · simp [ih, or_left_comm]

theorem Memory.insert_pairwise {m : Memory} (a : Nat) (v : Byte) (h : m.Pairwise fun x y => x.1 < y.1)
    (hn : ∀ c ∈ m, c.1 ≠ a) : (Memory.insert m a v).Pairwise fun x y => x.1 < y.1 := by
  induction m with
  | nil => simp [Memory.insert]
  | cons d rest ih =>
    obtain ⟨k, w⟩ := d
    rw [List.pairwise_cons] at h
    have hk : k ≠ a := hn (k, w) (by simp)
    unfold Memory.insert
    split
    · next hlt =>
      refine List.pairwise_cons.mpr ⟨fun c hc => ?_, List.pairwise_cons.mpr h⟩
      rcases List.mem_cons.mp hc with rfl | hc
      · exact hlt
      · exact lt_trans hlt (h.1 c hc)
    · next hge =>
      refine List.pairwise_cons.mpr ⟨fun c hc => ?_, ih h.2 fun c hc => hn c (by simp [hc])⟩
      rcases Memory.mem_insert.mp hc with rfl | hc
      · show k < a; omega
      · exact h.1 c hc

/-- Every store to an address that has a cell keeps the canonical form. -/
theorem Memory.wf_write {m : Memory} {a : Nat} (v : Byte) (hb : Memory.backed a = true) (h : m.wf = true) :
    (Memory.write m a v).wf = true := by
  unfold Memory.write
  split
  · exact Memory.wf_erase a h
  · next hv =>
    have he := (Memory.wf_iff _).mp (Memory.wf_erase a h)
    rw [Memory.wf_iff]
    refine ⟨Memory.insert_pairwise a v he.1 (Memory.erase_no m a), fun c hc => ?_⟩
    rcases Memory.mem_insert.mp hc with rfl | hc
    · exact ⟨hv, hb⟩
    · exact he.2 c hc

end Sys2Proof.Machine
end

