-- ==== Sys2Proof/Laws/State.lean ====
section
/-! SUPPORT. One lemma per field per update of the state, so that no proof unfolds a record update. -/

namespace Sys2Proof.Machine

variable (s : State)

/-! ### `State.setPc` -/

@[simp] theorem State.setPc_intc (v : Word) : (s.setPc v).intc = s.intc := rfl
@[simp] theorem State.setPc_timer (v : Word) : (s.setPc v).timer = s.timer := rfl
@[simp] theorem State.setPc_halted (v : Word) : (s.setPc v).halted = s.halted := rfl
@[simp] theorem State.setPc_mem (v : Word) : (s.setPc v).mem = s.mem := rfl
@[simp] theorem State.setPc_fault (v : Word) : (s.setPc v).fault = s.fault := rfl
@[simp] theorem State.setPc_stubRead (v : Word) : (s.setPc v).stubRead = s.stubRead := rfl
@[simp] theorem State.setPc_requests (v : Word) : (s.setPc v).requests = s.requests := rfl
@[simp] theorem State.setPc_a (v : Word) : (s.setPc v).regs.a = s.regs.a := rfl
@[simp] theorem State.setPc_f (v : Word) : (s.setPc v).regs.f = s.regs.f := rfl
@[simp] theorem State.setPc_b (v : Word) : (s.setPc v).regs.b = s.regs.b := rfl
@[simp] theorem State.setPc_c (v : Word) : (s.setPc v).regs.c = s.regs.c := rfl
@[simp] theorem State.setPc_d (v : Word) : (s.setPc v).regs.d = s.regs.d := rfl
@[simp] theorem State.setPc_e (v : Word) : (s.setPc v).regs.e = s.regs.e := rfl
@[simp] theorem State.setPc_h (v : Word) : (s.setPc v).regs.h = s.regs.h := rfl
@[simp] theorem State.setPc_l (v : Word) : (s.setPc v).regs.l = s.regs.l := rfl
@[simp] theorem State.setPc_sp (v : Word) : (s.setPc v).regs.sp = s.regs.sp := rfl
@[simp] theorem State.setPc_pc (v : Word) : (s.setPc v).regs.pc = v := rfl

/-! ### `State.setSp` -/

@[simp] theorem State.setSp_intc (v : Word) : (s.setSp v).intc = s.intc := rfl
@[simp] theorem State.setSp_timer (v : Word) : (s.setSp v).timer = s.timer := rfl
@[simp] theorem State.setSp_halted (v : Word) : (s.setSp v).halted = s.halted := rfl
@[simp] theorem State.setSp_mem (v : Word) : (s.setSp v).mem = s.mem := rfl
@[simp] theorem State.setSp_fault (v : Word) : (s.setSp v).fault = s.fault := rfl
@[simp] theorem State.setSp_stubRead (v : Word) : (s.setSp v).stubRead = s.stubRead := rfl
@[simp] theorem State.setSp_requests (v : Word) : (s.setSp v).requests = s.requests := rfl
@[simp] theorem State.setSp_a (v : Word) : (s.setSp v).regs.a = s.regs.a := rfl
@[simp] theorem State.setSp_f (v : Word) : (s.setSp v).regs.f = s.regs.f := rfl
@[simp] theorem State.setSp_b (v : Word) : (s.setSp v).regs.b = s.regs.b := rfl
@[simp] theorem State.setSp_c (v : Word) : (s.setSp v).regs.c = s.regs.c := rfl
@[simp] theorem State.setSp_d (v : Word) : (s.setSp v).regs.d = s.regs.d := rfl
@[simp] theorem State.setSp_e (v : Word) : (s.setSp v).regs.e = s.regs.e := rfl
@[simp] theorem State.setSp_h (v : Word) : (s.setSp v).regs.h = s.regs.h := rfl
@[simp] theorem State.setSp_l (v : Word) : (s.setSp v).regs.l = s.regs.l := rfl
@[simp] theorem State.setSp_sp (v : Word) : (s.setSp v).regs.sp = v := rfl
@[simp] theorem State.setSp_pc (v : Word) : (s.setSp v).regs.pc = s.regs.pc := rfl

/-! ### `State.setA` -/

@[simp] theorem State.setA_intc (v : Byte) : (s.setA v).intc = s.intc := rfl
@[simp] theorem State.setA_timer (v : Byte) : (s.setA v).timer = s.timer := rfl
@[simp] theorem State.setA_halted (v : Byte) : (s.setA v).halted = s.halted := rfl
@[simp] theorem State.setA_mem (v : Byte) : (s.setA v).mem = s.mem := rfl
@[simp] theorem State.setA_fault (v : Byte) : (s.setA v).fault = s.fault := rfl
@[simp] theorem State.setA_stubRead (v : Byte) : (s.setA v).stubRead = s.stubRead := rfl
@[simp] theorem State.setA_requests (v : Byte) : (s.setA v).requests = s.requests := rfl
@[simp] theorem State.setA_a (v : Byte) : (s.setA v).regs.a = v := rfl
@[simp] theorem State.setA_f (v : Byte) : (s.setA v).regs.f = s.regs.f := rfl
@[simp] theorem State.setA_b (v : Byte) : (s.setA v).regs.b = s.regs.b := rfl
@[simp] theorem State.setA_c (v : Byte) : (s.setA v).regs.c = s.regs.c := rfl
@[simp] theorem State.setA_d (v : Byte) : (s.setA v).regs.d = s.regs.d := rfl
@[simp] theorem State.setA_e (v : Byte) : (s.setA v).regs.e = s.regs.e := rfl
@[simp] theorem State.setA_h (v : Byte) : (s.setA v).regs.h = s.regs.h := rfl
@[simp] theorem State.setA_l (v : Byte) : (s.setA v).regs.l = s.regs.l := rfl
@[simp] theorem State.setA_sp (v : Byte) : (s.setA v).regs.sp = s.regs.sp := rfl
@[simp] theorem State.setA_pc (v : Byte) : (s.setA v).regs.pc = s.regs.pc := rfl

/-! ### `State.setFlags` -/

@[simp] theorem State.setFlags_intc (z n h c : Bool) : (s.setFlags z n h c).intc = s.intc := rfl
@[simp] theorem State.setFlags_timer (z n h c : Bool) : (s.setFlags z n h c).timer = s.timer := rfl
@[simp] theorem State.setFlags_halted (z n h c : Bool) : (s.setFlags z n h c).halted = s.halted := rfl
@[simp] theorem State.setFlags_mem (z n h c : Bool) : (s.setFlags z n h c).mem = s.mem := rfl
@[simp] theorem State.setFlags_fault (z n h c : Bool) : (s.setFlags z n h c).fault = s.fault := rfl
@[simp] theorem State.setFlags_stubRead (z n h c : Bool) : (s.setFlags z n h c).stubRead = s.stubRead := rfl
@[simp] theorem State.setFlags_requests (z n h c : Bool) : (s.setFlags z n h c).requests = s.requests := rfl
@[simp] theorem State.setFlags_a (z n h c : Bool) : (s.setFlags z n h c).regs.a = s.regs.a := rfl
@[simp] theorem State.setFlags_f (z n h c : Bool) : (s.setFlags z n h c).regs.f = packFlags s.regs.f z n h c := rfl
@[simp] theorem State.setFlags_b (z n h c : Bool) : (s.setFlags z n h c).regs.b = s.regs.b := rfl
@[simp] theorem State.setFlags_c (z n h c : Bool) : (s.setFlags z n h c).regs.c = s.regs.c := rfl
@[simp] theorem State.setFlags_d (z n h c : Bool) : (s.setFlags z n h c).regs.d = s.regs.d := rfl
@[simp] theorem State.setFlags_e (z n h c : Bool) : (s.setFlags z n h c).regs.e = s.regs.e := rfl
@[simp] theorem State.setFlags_h (z n h c : Bool) : (s.setFlags z n h c).regs.h = s.regs.h := rfl
@[simp] theorem State.setFlags_l (z n h c : Bool) : (s.setFlags z n h c).regs.l = s.regs.l := rfl
@[simp] theorem State.setFlags_sp (z n h c : Bool) : (s.setFlags z n h c).regs.sp = s.regs.sp := rfl
@[simp] theorem State.setFlags_pc (z n h c : Bool) : (s.setFlags z n h c).regs.pc = s.regs.pc := rfl

/-! ### `State.setHl` -/

@[simp] theorem State.setHl_intc (v : Word) : (s.setHl v).intc = s.intc := rfl
@[simp] theorem State.setHl_timer (v : Word) : (s.setHl v).timer = s.timer := rfl
@[simp] theorem State.setHl_halted (v : Word) : (s.setHl v).halted = s.halted := rfl
@[simp] theorem State.setHl_mem (v : Word) : (s.setHl v).mem = s.mem := rfl
@[simp] theorem State.setHl_fault (v : Word) : (s.setHl v).fault = s.fault := rfl
@[simp] theorem State.setHl_stubRead (v : Word) : (s.setHl v).stubRead = s.stubRead := rfl
@[simp] theorem State.setHl_requests (v : Word) : (s.setHl v).requests = s.requests := rfl
@[simp] theorem State.setHl_a (v : Word) : (s.setHl v).regs.a = s.regs.a := rfl
@[simp] theorem State.setHl_f (v : Word) : (s.setHl v).regs.f = s.regs.f := rfl
@[simp] theorem State.setHl_b (v : Word) : (s.setHl v).regs.b = s.regs.b := rfl
@[simp] theorem State.setHl_c (v : Word) : (s.setHl v).regs.c = s.regs.c := rfl
@[simp] theorem State.setHl_d (v : Word) : (s.setHl v).regs.d = s.regs.d := rfl
@[simp] theorem State.setHl_e (v : Word) : (s.setHl v).regs.e = s.regs.e := rfl
@[simp] theorem State.setHl_h (v : Word) : (s.setHl v).regs.h = hi8 v := rfl
@[simp] theorem State.setHl_l (v : Word) : (s.setHl v).regs.l = lo8 v := rfl
@[simp] theorem State.setHl_sp (v : Word) : (s.setHl v).regs.sp = s.regs.sp := rfl
@[simp] theorem State.setHl_pc (v : Word) : (s.setHl v).regs.pc = s.regs.pc := rfl

/-! ### `State.setAf` -/

@[simp] theorem State.setAf_intc (v : Word) : (s.setAf v).intc = s.intc := rfl
@[simp] theorem State.setAf_timer (v : Word) : (s.setAf v).timer = s.timer := rfl
@[simp] theorem State.setAf_halted (v : Word) : (s.setAf v).halted = s.halted := rfl
@[simp] theorem State.setAf_mem (v : Word) : (s.setAf v).mem = s.mem := rfl
@[simp] theorem State.setAf_fault (v : Word) : (s.setAf v).fault = s.fault := rfl
@[simp] theorem State.setAf_stubRead (v : Word) : (s.setAf v).stubRead = s.stubRead := rfl
@[simp] theorem State.setAf_requests (v : Word) : (s.setAf v).requests = s.requests := rfl
@[simp] theorem State.setAf_a (v : Word) : (s.setAf v).regs.a = hi8 v := rfl
@[simp] theorem State.setAf_f (v : Word) : (s.setAf v).regs.f = v.extractLsb' 4 4 ++ 0#4 := rfl
@[simp] theorem State.setAf_b (v : Word) : (s.setAf v).regs.b = s.regs.b := rfl
@[simp] theorem State.setAf_c (v : Word) : (s.setAf v).regs.c = s.regs.c := rfl
@[simp] theorem State.setAf_d (v : Word) : (s.setAf v).regs.d = s.regs.d := rfl
@[simp] theorem State.setAf_e (v : Word) : (s.setAf v).regs.e = s.regs.e := rfl
@[simp] theorem State.setAf_h (v : Word) : (s.setAf v).regs.h = s.regs.h := rfl
@[simp] theorem State.setAf_l (v : Word) : (s.setAf v).regs.l = s.regs.l := rfl
@[simp] theorem State.setAf_sp (v : Word) : (s.setAf v).regs.sp = s.regs.sp := rfl
@[simp] theorem State.setAf_pc (v : Word) : (s.setAf v).regs.pc = s.regs.pc := rfl

/-! ### `State.setReg` -/

@[simp] theorem State.setReg_intc (r : Reg8) (v : Byte) : (s.setReg r v).intc = s.intc := rfl
@[simp] theorem State.setReg_timer (r : Reg8) (v : Byte) : (s.setReg r v).timer = s.timer := rfl
@[simp] theorem State.setReg_halted (r : Reg8) (v : Byte) : (s.setReg r v).halted = s.halted := rfl
@[simp] theorem State.setReg_mem (r : Reg8) (v : Byte) : (s.setReg r v).mem = s.mem := rfl
@[simp] theorem State.setReg_fault (r : Reg8) (v : Byte) : (s.setReg r v).fault = s.fault := rfl
@[simp] theorem State.setReg_stubRead (r : Reg8) (v : Byte) : (s.setReg r v).stubRead = s.stubRead := rfl
@[simp] theorem State.setReg_requests (r : Reg8) (v : Byte) : (s.setReg r v).requests = s.requests := rfl
@[simp] theorem State.setReg_f (r : Reg8) (v : Byte) : (s.setReg r v).regs.f = s.regs.f := by cases r <;> rfl
@[simp] theorem State.setReg_sp (r : Reg8) (v : Byte) : (s.setReg r v).regs.sp = s.regs.sp := by cases r <;> rfl
@[simp] theorem State.setReg_pc (r : Reg8) (v : Byte) : (s.setReg r v).regs.pc = s.regs.pc := by cases r <;> rfl

/-! ### `State.setReg16` -/

@[simp] theorem State.setReg16_intc (p : Reg16) (v : Word) : (s.setReg16 p v).intc = s.intc := rfl
@[simp] theorem State.setReg16_timer (p : Reg16) (v : Word) : (s.setReg16 p v).timer = s.timer := rfl
@[simp] theorem State.setReg16_halted (p : Reg16) (v : Word) : (s.setReg16 p v).halted = s.halted := rfl
@[simp] theorem State.setReg16_mem (p : Reg16) (v : Word) : (s.setReg16 p v).mem = s.mem := rfl
@[simp] theorem State.setReg16_fault (p : Reg16) (v : Word) : (s.setReg16 p v).fault = s.fault := rfl
@[simp] theorem State.setReg16_stubRead (p : Reg16) (v : Word) : (s.setReg16 p v).stubRead = s.stubRead := rfl
@[simp] theorem State.setReg16_requests (p : Reg16) (v : Word) : (s.setReg16 p v).requests = s.requests := rfl
@[simp] theorem State.setReg16_a (p : Reg16) (v : Word) : (s.setReg16 p v).regs.a = s.regs.a := by cases p <;> rfl
@[simp] theorem State.setReg16_f (p : Reg16) (v : Word) : (s.setReg16 p v).regs.f = s.regs.f := by cases p <;> rfl
@[simp] theorem State.setReg16_pc (p : Reg16) (v : Word) : (s.setReg16 p v).regs.pc = s.regs.pc := by cases p <;> rfl

/-! ### `State.setPop` -/

@[simp] theorem State.setPop_intc (p : PopPair) (v : Word) : (s.setPop p v).intc = s.intc := rfl
@[simp] theorem State.setPop_timer (p : PopPair) (v : Word) : (s.setPop p v).timer = s.timer := rfl
@[simp] theorem State.setPop_halted (p : PopPair) (v : Word) : (s.setPop p v).halted = s.halted := rfl
@[simp] theorem State.setPop_mem (p : PopPair) (v : Word) : (s.setPop p v).mem = s.mem := rfl
@[simp] theorem State.setPop_fault (p : PopPair) (v : Word) : (s.setPop p v).fault = s.fault := rfl
@[simp] theorem State.setPop_stubRead (p : PopPair) (v : Word) : (s.setPop p v).stubRead = s.stubRead := rfl
@[simp] theorem State.setPop_requests (p : PopPair) (v : Word) : (s.setPop p v).requests = s.requests := rfl
@[simp] theorem State.setPop_a (p : PopPair) (v : Word) : (s.setPop p v).regs.a = s.regs.a := by cases p <;> rfl
@[simp] theorem State.setPop_f (p : PopPair) (v : Word) : (s.setPop p v).regs.f = s.regs.f := by cases p <;> rfl
@[simp] theorem State.setPop_sp (p : PopPair) (v : Word) : (s.setPop p v).regs.sp = s.regs.sp := by cases p <;> rfl
@[simp] theorem State.setPop_pc (p : PopPair) (v : Word) : (s.setPop p v).regs.pc = s.regs.pc := by cases p <;> rfl
/-! ### Reading a register back -/

@[simp] theorem State.setReg_reg_same (r : Reg8) (v : Byte) : (s.setReg r v).reg r = v := by cases r <;> rfl
theorem State.setReg_reg_ne {r q : Reg8} (v : Byte) (h : q ≠ r) : (s.setReg r v).reg q = s.reg q := by
  cases r <;> cases q <;> first | rfl | exact absurd rfl h
@[simp] theorem State.setA_reg_a (v : Byte) : (s.setA v).reg .a = v := rfl
theorem State.setA_reg_ne {q : Reg8} (v : Byte) (h : q ≠ .a) : (s.setA v).reg q = s.reg q := by
  cases q <;> first | rfl | exact absurd rfl h
@[simp] theorem State.setFlags_reg (z n h c : Bool) (q : Reg8) : (s.setFlags z n h c).reg q = s.reg q := by
  cases q <;> rfl
@[simp] theorem State.setPc_reg (v : Word) (q : Reg8) : (s.setPc v).reg q = s.reg q := by cases q <;> rfl
@[simp] theorem State.setSp_reg (v : Word) (q : Reg8) : (s.setSp v).reg q = s.reg q := by cases q <;> rfl
@[simp] theorem State.setPc_hl (v : Word) : (s.setPc v).hl = s.hl := rfl
@[simp] theorem State.setSp_hl (v : Word) : (s.setSp v).hl = s.hl := rfl
@[simp] theorem State.setA_hl (v : Byte) : (s.setA v).hl = s.hl := rfl
@[simp] theorem State.setFlags_hl (z n h c : Bool) : (s.setFlags z n h c).hl = s.hl := rfl

/-! ### Bytes and words (R5, R11) -/

theorem word16_getLsbD (hi lo : Byte) (i : Nat) :
    (word16 hi lo).getLsbD i = if i < 8 then lo.getLsbD i else hi.getLsbD (i - 8) :=
  BitVec.getLsbD_append

@[simp] theorem hi8_word16 (hi lo : Byte) : hi8 (word16 hi lo) = hi := by
  apply BitVec.eq_of_getLsbD_eq; intro i hi'
  simp [hi8, hi', word16_getLsbD]

@[simp] theorem lo8_word16 (hi lo : Byte) : lo8 (word16 hi lo) = lo := by
  apply BitVec.eq_of_getLsbD_eq; intro i hi'
  simp [lo8, hi', word16_getLsbD]

@[simp] theorem word16_hi8_lo8 (v : Word) : word16 (hi8 v) (lo8 v) = v := by
  apply BitVec.eq_of_getLsbD_eq; intro i hi'
  rw [word16_getLsbD]
  by_cases h : i < 8
  · simp [h, lo8]
  · have h1 : i - 8 < 8 := by omega
    have h2 : 8 + (i - 8) = i := by omega
    simp [h, hi8, h1, h2]

@[simp] theorem State.setHl_hl (v : Word) : (s.setHl v).hl = v := word16_hi8_lo8 v

@[simp] theorem State.setReg16_reg16_same (p : Reg16) (v : Word) : (s.setReg16 p v).reg16 p = v := by
  cases p
  · exact word16_hi8_lo8 v
  · exact word16_hi8_lo8 v
  · exact word16_hi8_lo8 v
  · rfl

theorem State.setReg16_reg16_ne {p q : Reg16} (v : Word) (h : q ≠ p) : (s.setReg16 p v).reg16 q = s.reg16 q := by
  cases p <;> cases q <;> first | rfl | exact absurd rfl h

/-! ### Flags (R12) -/

theorem packFlags_getLsbD (f : Byte) (z n h c : Bool) (i : Nat) (hi : i < 8) :
    (packFlags f z n h c).getLsbD i =
      if i < 4 then f.getLsbD i else if i = 4 then c else if i = 5 then h else if i = 6 then n else z := by
  have key : (packFlags f z n h c).getLsbD i =
      (BitVec.ofBool z ++ BitVec.ofBool n ++ BitVec.ofBool h ++ BitVec.ofBool c ++
        f.extractLsb' 0 4 : BitVec (1 + 1 + 1 + 1 + 4)).getLsbD i := rfl
  rw [key]
  simp only [BitVec.getLsbD_append, BitVec.getLsbD_extractLsb', BitVec.getLsbD_ofBool]
  by_cases h0 : i < 4
  · simp [h0]
  · rcases (by omega : i = 4 ∨ i = 5 ∨ i = 6 ∨ i = 7) with rfl | rfl | rfl | rfl <;> simp

@[simp] theorem State.setFlags_fZ (z n h c : Bool) : (s.setFlags z n h c).fZ = z :=
  packFlags_getLsbD _ _ _ _ _ 7 (by decide)
@[simp] theorem State.setFlags_fN (z n h c : Bool) : (s.setFlags z n h c).fN = n :=
  packFlags_getLsbD _ _ _ _ _ 6 (by decide)
@[simp] theorem State.setFlags_fH (z n h c : Bool) : (s.setFlags z n h c).fH = h :=
  packFlags_getLsbD _ _ _ _ _ 5 (by decide)
@[simp] theorem State.setFlags_fC (z n h c : Bool) : (s.setFlags z n h c).fC = c :=
  packFlags_getLsbD _ _ _ _ _ 4 (by decide)

@[simp] theorem packFlags_low (f : Byte) (z n h c : Bool) :
    (packFlags f z n h c).extractLsb' 0 4 = f.extractLsb' 0 4 := by
  apply BitVec.eq_of_getLsbD_eq; intro i hi
  simp [packFlags_getLsbD _ _ _ _ _ i (by omega), hi]

@[simp] theorem setAf_low (v : Word) : (v.extractLsb' 4 4 ++ 0#4 : Byte).extractLsb' 0 4 = 0#4 := by
  apply BitVec.eq_of_getLsbD_eq; intro i hi
  have key : (v.extractLsb' 4 4 ++ 0#4 : Byte).getLsbD i = (v.extractLsb' 4 4 ++ 0#4 : BitVec (4 + 4)).getLsbD i := rfl
  rw [BitVec.getLsbD_extractLsb', Nat.zero_add, key, BitVec.getLsbD_append]
  simp [hi]

@[simp] theorem Regs.reset_low (b : Bool) : (Regs.reset b).f.extractLsb' 0 4 = 0#4 := by cases b <;> decide

end Sys2Proof.Machine
end

