-- ==== Sys2Proof/Laws/Bus.lean ====
section
/-! SUPPORT. The bus: what a read depends on, what a write leaves alone, and where each raises. -/

namespace Sys2Proof.Machine

/-! ### A read depends on no register and no control state -/

variable (s : State) (a : Word)

@[simp] theorem busRead_regs (g : Regs) : busRead { s with regs := g } a = busRead s a := rfl
@[simp] theorem busRead_fault (f : Option Fault) : busRead { s with fault := f } a = busRead s a := rfl
@[simp] theorem busRead_halted (b : Bool) : busRead { s with halted := b } a = busRead s a := rfl
@[simp] theorem busRead_requests (q : List Byte) : busRead { s with requests := q } a = busRead s a := rfl
@[simp] theorem busRead_setPc (v : Word) : busRead (s.setPc v) a = busRead s a := rfl
@[simp] theorem busRead_setSp (v : Word) : busRead (s.setSp v) a = busRead s a := rfl
@[simp] theorem busRead_setA (v : Byte) : busRead (s.setA v) a = busRead s a := rfl
@[simp] theorem busRead_setFlags (z n h c : Bool) : busRead (s.setFlags z n h c) a = busRead s a := rfl
@[simp] theorem busRead_setHl (v : Word) : busRead (s.setHl v) a = busRead s a := rfl
@[simp] theorem busRead_setAf (v : Word) : busRead (s.setAf v) a = busRead s a := rfl
@[simp] theorem busRead_setReg (r : Reg8) (v : Byte) : busRead (s.setReg r v) a = busRead s a := rfl
@[simp] theorem busRead_setReg16 (p : Reg16) (v : Word) : busRead (s.setReg16 p v) a = busRead s a := rfl
@[simp] theorem busRead_setPop (p : PopPair) (v : Word) : busRead (s.setPop p v) a = busRead s a := rfl

/-! ### A write and the registers -/

/-- A write commutes with a change of registers. -/
theorem busWrite_regs (g : Regs) (v : Byte) :
    busWrite { s with regs := g } a v = (busWrite s a v).map fun t => { t with regs := g } := by
  unfold busWrite ioWrite
  cases regionOf a <;> try rfl
  cases ioRegOf a <;> rfl

variable {s a}

/-- Everything a write leaves alone wherever it goes. -/
theorem busWrite_frame {v : Byte} {t : State} (h : busWrite s a v = some t) :
    t.regs = s.regs ∧ t.intc.ime = s.intc.ime ∧ t.intc.pe = s.intc.pe ∧ t.intc.pd = s.intc.pd ∧
    t.halted = s.halted ∧ t.fault = s.fault ∧ t.stubRead = s.stubRead ∧ t.requests = s.requests := by
  unfold busWrite ioWrite at h
  cases hr : regionOf a <;> simp only [hr] at h
  case io => cases hi : ioRegOf a <;> simp only [hi, Option.some.injEq] at h <;> subst h <;> simp
  all_goals first | (cases h; done) | (cases h; simp)

/-! ### The map -/

/-- The address range of the row `regionOf` answers (R52). -/
theorem regionOf_range (a : Word) :
    match regionOf a with
    | .rom => a.toNat < 0x8000
    | .vram => 0x8000 ≤ a.toNat ∧ a.toNat < 0xA000
    | .cram => 0xA000 ≤ a.toNat ∧ a.toNat < 0xC000
    | .wram => 0xC000 ≤ a.toNat ∧ a.toNat < 0xE000
    | .echo => 0xE000 ≤ a.toNat ∧ a.toNat < 0xFE00
    | .oam => 0xFE00 ≤ a.toNat ∧ a.toNat < 0xFEA0
    | .unusable => 0xFEA0 ≤ a.toNat ∧ a.toNat < 0xFF00
    | .io => 0xFF00 ≤ a.toNat ∧ a.toNat < 0xFF80
    | .hram => 0xFF80 ≤ a.toNat ∧ a.toNat < 0xFFFF
    | .ie => a.toNat = 0xFFFF := by
  have := a.isLt
  unfold regionOf
  split_ifs <;> simp only <;> omega

/-- A read raises where a write does. -/
theorem busWrite_none_iff_busRead (v : Byte) : busWrite s a v = none ↔ busRead s a = none := by
  unfold busWrite busRead
  cases regionOf a <;> simp

/-- A write changes cells only at backed addresses, so it keeps their canonical form. -/
theorem busWrite_wf {v : Byte} {t : State} (h : busWrite s a v = some t) (hw : s.mem.wf = true) : t.mem.wf = true := by
  have hr := regionOf_range a
  unfold busWrite ioWrite at h
  cases hc : regionOf a <;> simp only [hc] at h hr
  case io => cases hi : ioRegOf a <;> simp only [hi, Option.some.injEq] at h <;> subst h <;> exact hw
  case echo => cases h
  case unusable => cases h
  all_goals
    cases h
    first
      | exact hw
      | exact Memory.wf_write _ (by simp [Memory.backed]; omega) hw

/-- A write never changes what a ROM address reads as (R53). -/
theorem busWrite_rom {v : Byte} {t : State} (h : busWrite s a v = some t) {x : Word} (hx : x.toNat < 0x8000) :
    busRead t x = busRead s x := by
  have hr := regionOf_range a
  have hrx : regionOf x = .rom := by simp [regionOf, hx]
  unfold busWrite ioWrite at h
  unfold busRead
  cases hc : regionOf a <;> simp only [hc] at h hr
  case io => cases hi : ioRegOf a <;> simp only [hi, Option.some.injEq] at h <;> subst h <;> simp [hrx]
  case echo => cases h
  case unusable => cases h
  all_goals
    cases h
    simp only [hrx]
    first
      | done
      | (rw [Memory.read_write_ne]; omega)

end Sys2Proof.Machine
end

