-- ==== Sys2Proof/Laws/Ops.lean ====
section
/-! SUPPORT. One lemma per shared operation, saying once everything it can do. `Answers r P` is "r is a next state,
and P holds of it": an instruction is followed through its accesses with these lemmas, no operation unfolded. -/

namespace Sys2Proof.Machine

/-- The result is a next state that has the property. -/
def Answers (r : Result) (P : State → Prop) : Prop := ∃ t, r = .next t ∧ P t

theorem Answers.next {t : State} {P : State → Prop} (h : P t) : Answers (.next t) P := ⟨t, rfl, h⟩

theorem Answers.mono {r : Result} {P Q : State → Prop} (h : Answers r P) (hq : ∀ t, P t → Q t) : Answers r Q :=
  let ⟨t, e, p⟩ := h; ⟨t, e, hq t p⟩

/-- The property of the next state, when the result is known to be one. -/
theorem Answers.of_eq {r : Result} {P : State → Prop} (h : Answers r P) {t : State} (e : r = .next t) : P t := by
  obtain ⟨u, e', p⟩ := h
  cases e.symm.trans e'
  exact p

theorem answers_raise {s : State} {f : Fault} {P : State → Prop} (h : P { s with fault := some f }) :
    Answers (raise s f) P := .next h

/-! ### Reads and writes, what they do for certain -/

theorem withRead_some {s : State} {a : Word} {v : Byte} {k : Byte → Result} (h : busRead s a = some v) :
    withRead s a k = k v := by simp [withRead, h]

theorem withRead_none {s : State} {a : Word} {k : Byte → Result} (h : busRead s a = none) :
    withRead s a k = raise s (.busAccessError a .read) := by simp [withRead, h]

theorem withWrite_some {s t : State} {a : Word} {v : Byte} {k : State → Result} (h : busWrite s a v = some t) :
    withWrite s a v k = k t := by simp [withWrite, h]

theorem withWrite_none {s : State} {a : Word} {v : Byte} {k : State → Result} (h : busWrite s a v = none) :
    withWrite s a v k = raise s (.busAccessError a .write) := by simp [withWrite, h]

theorem withFetch8_some {s : State} {v : Byte} {k : Byte → State → Result} (h : busRead s s.regs.pc = some v) :
    withFetch8 s k = k v (s.setPc (s.regs.pc + 1)) := withRead_some h

/-! ### What each operation can do -/

theorem answers_withRead {s : State} {a : Word} {k : Byte → Result} {P : State → Prop}
    (hs : ∀ v, busRead s a = some v → Answers (k v) P)
    (hn : busRead s a = none → P { s with fault := some (.busAccessError a .read) }) :
    Answers (withRead s a k) P := by
  cases h : busRead s a with
  | none => rw [withRead_none h]; exact .next (hn h)
  | some v => rw [withRead_some h]; exact hs v h

theorem answers_withWrite {s : State} {a : Word} {v : Byte} {k : State → Result} {P : State → Prop}
    (hs : ∀ t, busWrite s a v = some t → Answers (k t) P)
    (hn : busWrite s a v = none → P { s with fault := some (.busAccessError a .write) }) :
    Answers (withWrite s a v k) P := by
  cases h : busWrite s a v with
  | none => rw [withWrite_none h]; exact .next (hn h)
  | some t => rw [withWrite_some h]; exact hs t h

theorem answers_withFetch8 {s : State} {k : Byte → State → Result} {P : State → Prop}
    (hs : ∀ v, busRead s s.regs.pc = some v → Answers (k v (s.setPc (s.regs.pc + 1))) P)
    (hn : busRead s s.regs.pc = none → P { s with fault := some (.busAccessError s.regs.pc .read) }) :
    Answers (withFetch8 s k) P := answers_withRead hs hn

theorem answers_withRead16 {s : State} {a : Word} {k : Word → Result} {P : State → Prop}
    (hs : ∀ lo hi, busRead s a = some lo → busRead s (a + 1) = some hi → Answers (k (word16 hi lo)) P)
    (hn : ∀ x, busRead s x = none → P { s with fault := some (.busAccessError x .read) }) :
    Answers (withRead16 s a k) P :=
  answers_withRead (fun lo hlo => answers_withRead (fun hi hhi => hs lo hi hlo hhi) (hn _)) (hn _)

theorem answers_withPop16 {s : State} {k : Word → State → Result} {P : State → Prop}
    (hs : ∀ lo hi, busRead s s.regs.sp = some lo → busRead s (s.regs.sp + 1) = some hi →
      Answers (k (word16 hi lo) (s.setSp (s.regs.sp + 2))) P)
    (hn : ∀ x, busRead s x = none → P { s with fault := some (.busAccessError x .read) }) :
    Answers (withPop16 s k) P := answers_withRead16 hs hn

theorem answers_withWrite16 {s : State} {a v : Word} {k : State → Result} {P : State → Prop}
    (hs : ∀ u t, busWrite s a (lo8 v) = some u → busWrite u (a + 1) (hi8 v) = some t → Answers (k t) P)
    (h1 : busWrite s a (lo8 v) = none → P { s with fault := some (.busAccessError a .write) })
    (h2 : ∀ u, busWrite s a (lo8 v) = some u → busWrite u (a + 1) (hi8 v) = none →
      P { u with fault := some (.busAccessError (a + 1) .write) }) :
    Answers (withWrite16 s a v k) P :=
  answers_withWrite (fun u hu => answers_withWrite (fun t ht => hs u t hu ht) (h2 u hu)) h1

/-! ### Ticks: only DIV, TIMA and IF bit 2 can change -/

theorem tick_frame (s : State) :
    (tick s).regs = s.regs ∧ (tick s).mem = s.mem ∧ (tick s).halted = s.halted ∧ (tick s).fault = s.fault ∧
    (tick s).stubRead = s.stubRead ∧ (tick s).requests = s.requests ∧
    (tick s).intc.ime = s.intc.ime ∧ (tick s).intc.pe = s.intc.pe ∧ (tick s).intc.pd = s.intc.pd ∧
    (tick s).intc.ie = s.intc.ie ∧ (tick s).timer.tma = s.timer.tma ∧ (tick s).timer.tac = s.timer.tac ∧
    (tick s).timer.div = s.timer.div + 1 := by
  unfold tick timaIncrement timaOverflow
  simp only
  split_ifs <;> simp

theorem tickN_frame (n : Nat) (s : State) :
    (tickN n s).regs = s.regs ∧ (tickN n s).mem = s.mem ∧ (tickN n s).halted = s.halted ∧
    (tickN n s).fault = s.fault ∧ (tickN n s).stubRead = s.stubRead ∧ (tickN n s).requests = s.requests ∧
    (tickN n s).intc.ime = s.intc.ime ∧ (tickN n s).intc.pe = s.intc.pe ∧ (tickN n s).intc.pd = s.intc.pd ∧
    (tickN n s).intc.ie = s.intc.ie ∧ (tickN n s).timer.tma = s.timer.tma ∧ (tickN n s).timer.tac = s.timer.tac := by
  induction n generalizing s with
  | zero => simp [tickN]
  | succ n ih =>
    have h := tick_frame s
    have h' := ih (tick s)
    simp only [tickN]
    simp_all

/-- A tick can only set IF bit 2. -/
theorem tick_iflag (s : State) :
    (tick s).intc.iflag = s.intc.iflag ∨ (tick s).intc.iflag = s.intc.iflag ||| 0x04 := by
  unfold tick timaIncrement timaOverflow
  simp only
  split_ifs <;> simp

/-! ### The host's request and the interrupt phase -/

theorem takeRequest_frame (s : State) :
    (takeRequest s).regs = s.regs ∧ (takeRequest s).mem = s.mem ∧ (takeRequest s).halted = s.halted ∧
    (takeRequest s).fault = s.fault ∧ (takeRequest s).stubRead = s.stubRead ∧ (takeRequest s).timer = s.timer ∧
    (takeRequest s).intc.ime = s.intc.ime ∧ (takeRequest s).intc.pe = s.intc.pe ∧
    (takeRequest s).intc.pd = s.intc.pd ∧ (takeRequest s).intc.ie = s.intc.ie := by
  unfold takeRequest hostRequest
  cases s.requests <;> simp

theorem countdowns_frame (s : State) :
    (countdowns s).regs = s.regs ∧ (countdowns s).mem = s.mem ∧ (countdowns s).halted = s.halted ∧
    (countdowns s).fault = s.fault ∧ (countdowns s).stubRead = s.stubRead ∧
    (countdowns s).requests = s.requests ∧ (countdowns s).timer = s.timer ∧
    (countdowns s).intc.ie = s.intc.ie ∧ (countdowns s).intc.iflag = s.intc.iflag := by
  unfold countdowns countDisable countEnable
  simp only
  split <;> split <;> simp_all

/-- Dispatch: both stack bytes are written and control goes to the vector, or the push raises with SP lowered. -/
theorem answers_dispatch {i : IrqSource} {s : State} {P : State → Prop}
    (hs : ∀ u t, busWrite (s.setSp (pushAddress s)) (pushAddress s) (lo8 s.regs.pc) = some u →
      busWrite u (pushAddress s + 1) (hi8 s.regs.pc) = some t → P (enterVector t i))
    (h1 : busWrite (s.setSp (pushAddress s)) (pushAddress s) (lo8 s.regs.pc) = none →
      P { s.setSp (pushAddress s) with fault := some (.busAccessError (pushAddress s) .write) })
    (h2 : ∀ u, busWrite (s.setSp (pushAddress s)) (pushAddress s) (lo8 s.regs.pc) = some u →
      busWrite u (pushAddress s + 1) (hi8 s.regs.pc) = none →
      P { u with fault := some (.busAccessError (pushAddress s + 1) .write) }) :
    Answers (dispatch i s) P :=
  answers_withWrite16 (fun u t hu ht => .next (hs u t hu ht)) h1 h2

/-- The interrupt phase: the countdowns alone, or after them one dispatch of a pending source. -/
theorem answers_interruptPhase {s : State} {P : State → Prop}
    (hq : (countdowns s).intc.ime = false ∨ pendingSource (countdowns s).intc = none → P (countdowns s))
    (hd : ∀ i, (countdowns s).intc.ime = true → pendingSource (countdowns s).intc = some i →
      Answers (dispatch i (countdowns s)) P) :
    Answers (interruptPhase s) P := by
  unfold interruptPhase scan
  cases hi : (countdowns s).intc.ime with
  | false => simpa using Answers.next (hq (.inl hi))
  | true =>
    simp only [↓reduceIte]
    cases hp : pendingSource (countdowns s).intc with
    | none => exact .next (hq (.inr hp))
    | some i => exact hd i hi hp

/-! ### The end of a Step -/

/-- After an Operation that answered `t`: nothing more if `t` is latched, else the ticks and the interrupt phase. -/
theorem finishStep_next (n : Nat) (t : State) :
    finishStep n (.next t) = if t.fault = none then interruptPhase (tickN n t) else .next t := by
  cases h : t.fault <;> simp [finishStep, h]

theorem answers_finishStep {n : Nat} {r : Result} {P : State → Prop}
    (h : Answers r fun t => (t.fault ≠ none → P t) ∧ (t.fault = none → Answers (interruptPhase (tickN n t)) P)) :
    Answers (finishStep n r) P := by
  obtain ⟨t, rfl, hf, hn⟩ := h
  rw [finishStep_next]
  split
  · next h => exact hn h
  · next h => exact .next (hf h)

end Sys2Proof.Machine
end

