-- ==== Sys2Proof/Laws/PerInstr.lean ====
section
/-! SUPPORT. Laws said for each instruction in turn: the length of its encoding (`30_encoding.md` R90, R103). -/

namespace Sys2Proof.Laws.Length

open Sys2Proof

/-- How many bytes an entry of the primary table calls for, its own byte included. -/
def entryLength (e : Entry) : Nat :=
  match e with
  | .op0 _ => 1
  | .op8 _ => 2
  | .op16 _ => 3
  | .escape => 2
  | .unknown => 0

/-- The first byte of a well-formed instruction decides the length of its encoding; the prefix byte alone, whose
second byte belongs to the instruction it selects, is left out. -/
def Statement (i : Instr) : Prop :=
  i.wellFormed = true → i ≠ .prefixCb →
    ∃ op rest, encode i = op :: rest ∧ (encode i).length = entryLength (primaryTable op)

theorem ldRR (dst : Reg8) (src : Reg8) : Statement (.ldRR dst src) := by
  intro _ _
  cases dst <;> cases src <;> exact ⟨_, _, rfl, rfl⟩

theorem ldRHl (dst : Reg8) : Statement (.ldRHl dst) := by
  intro _ _
  cases dst <;> exact ⟨_, _, rfl, rfl⟩

theorem ldHlR (s : Reg8) : Statement (.ldHlR s) := by
  intro _ _
  cases s <;> exact ⟨_, _, rfl, rfl⟩

theorem ldRD8 (dst : Reg8) (n : Byte) : Statement (.ldRD8 dst n) := by
  intro _ _
  cases dst <;> exact ⟨_, _, rfl, rfl⟩

theorem ldHlD8 (n : Byte) : Statement (.ldHlD8 n) := fun _ _ => ⟨_, _, rfl, rfl⟩

theorem ldABc : Statement (.ldABc) := fun _ _ => ⟨_, _, rfl, rfl⟩

theorem ldADe : Statement (.ldADe) := fun _ _ => ⟨_, _, rfl, rfl⟩

theorem ldBcA : Statement (.ldBcA) := fun _ _ => ⟨_, _, rfl, rfl⟩

theorem ldDeA : Statement (.ldDeA) := fun _ _ => ⟨_, _, rfl, rfl⟩

theorem ldHliA : Statement (.ldHliA) := fun _ _ => ⟨_, _, rfl, rfl⟩

theorem ldHldA : Statement (.ldHldA) := fun _ _ => ⟨_, _, rfl, rfl⟩

theorem ldAHli : Statement (.ldAHli) := fun _ _ => ⟨_, _, rfl, rfl⟩

theorem ldAHld : Statement (.ldAHld) := fun _ _ => ⟨_, _, rfl, rfl⟩

theorem ldhA8A (n : Byte) : Statement (.ldhA8A n) := fun _ _ => ⟨_, _, rfl, rfl⟩

theorem ldhAA8 (n : Byte) : Statement (.ldhAA8 n) := fun _ _ => ⟨_, _, rfl, rfl⟩

theorem ldCA : Statement (.ldCA) := fun _ _ => ⟨_, _, rfl, rfl⟩

theorem ldAC : Statement (.ldAC) := fun _ _ => ⟨_, _, rfl, rfl⟩

theorem ldA16A (nn : Word) : Statement (.ldA16A nn) := fun _ _ => ⟨_, _, rfl, rfl⟩

theorem ldAA16 (nn : Word) : Statement (.ldAA16 nn) := fun _ _ => ⟨_, _, rfl, rfl⟩

theorem ldRrD16 (p : Reg16) (nn : Word) : Statement (.ldRrD16 p nn) := by
  intro _ _
  cases p <;> exact ⟨_, _, rfl, rfl⟩

theorem ldA16Sp (nn : Word) : Statement (.ldA16Sp nn) := fun _ _ => ⟨_, _, rfl, rfl⟩

theorem ldSpHl : Statement (.ldSpHl) := fun _ _ => ⟨_, _, rfl, rfl⟩

theorem ldHlSpR8 (e : Byte) : Statement (.ldHlSpR8 e) := fun _ _ => ⟨_, _, rfl, rfl⟩

theorem pushRr (p : StackPair) : Statement (.pushRr p) := by
  intro _ _
  cases p <;> exact ⟨_, _, rfl, rfl⟩

theorem popRr (p : PopPair) : Statement (.popRr p) := by
  intro _ _
  cases p <;> exact ⟨_, _, rfl, rfl⟩

theorem popAf : Statement (.popAf) := fun _ _ => ⟨_, _, rfl, rfl⟩

theorem addR (s : Reg8) : Statement (.addR s) := by
  intro _ _
  cases s <;> exact ⟨_, _, rfl, rfl⟩

theorem addHl : Statement (.addHl) := fun _ _ => ⟨_, _, rfl, rfl⟩

theorem addD8 (n : Byte) : Statement (.addD8 n) := fun _ _ => ⟨_, _, rfl, rfl⟩

theorem adcR (s : Reg8) : Statement (.adcR s) := by
  intro _ _
  cases s <;> exact ⟨_, _, rfl, rfl⟩

theorem adcHl : Statement (.adcHl) := fun _ _ => ⟨_, _, rfl, rfl⟩

theorem adcD8 (n : Byte) : Statement (.adcD8 n) := fun _ _ => ⟨_, _, rfl, rfl⟩

theorem subR (s : Reg8) : Statement (.subR s) := by
  intro _ _
  cases s <;> exact ⟨_, _, rfl, rfl⟩

theorem subHl : Statement (.subHl) := fun _ _ => ⟨_, _, rfl, rfl⟩

theorem subD8 (n : Byte) : Statement (.subD8 n) := fun _ _ => ⟨_, _, rfl, rfl⟩

theorem sbcR (s : Reg8) : Statement (.sbcR s) := by
  intro _ _
  cases s <;> exact ⟨_, _, rfl, rfl⟩

theorem sbcHl : Statement (.sbcHl) := fun _ _ => ⟨_, _, rfl, rfl⟩

theorem sbcD8 (n : Byte) : Statement (.sbcD8 n) := fun _ _ => ⟨_, _, rfl, rfl⟩

theorem andR (s : Reg8) : Statement (.andR s) := by
  intro _ _
  cases s <;> exact ⟨_, _, rfl, rfl⟩

theorem andHl : Statement (.andHl) := fun _ _ => ⟨_, _, rfl, rfl⟩

theorem andD8 (n : Byte) : Statement (.andD8 n) := fun _ _ => ⟨_, _, rfl, rfl⟩

theorem xorR (s : Reg8) : Statement (.xorR s) := by
  intro _ _
  cases s <;> exact ⟨_, _, rfl, rfl⟩

theorem xorHl : Statement (.xorHl) := fun _ _ => ⟨_, _, rfl, rfl⟩

theorem xorD8 (n : Byte) : Statement (.xorD8 n) := fun _ _ => ⟨_, _, rfl, rfl⟩

theorem orR (s : Reg8) : Statement (.orR s) := by
  intro _ _
  cases s <;> exact ⟨_, _, rfl, rfl⟩

theorem orHl : Statement (.orHl) := fun _ _ => ⟨_, _, rfl, rfl⟩

theorem orD8 (n : Byte) : Statement (.orD8 n) := fun _ _ => ⟨_, _, rfl, rfl⟩

theorem cpR (s : Reg8) : Statement (.cpR s) := by
  intro _ _
  cases s <;> exact ⟨_, _, rfl, rfl⟩

theorem cpHl : Statement (.cpHl) := fun _ _ => ⟨_, _, rfl, rfl⟩

theorem cpD8 (n : Byte) : Statement (.cpD8 n) := fun _ _ => ⟨_, _, rfl, rfl⟩

theorem incR (dst : Reg8) : Statement (.incR dst) := by
  intro _ _
  cases dst <;> exact ⟨_, _, rfl, rfl⟩

theorem incHl : Statement (.incHl) := fun _ _ => ⟨_, _, rfl, rfl⟩

theorem decR (dst : Reg8) : Statement (.decR dst) := by
  intro _ _
  cases dst <;> exact ⟨_, _, rfl, rfl⟩

theorem decHl : Statement (.decHl) := fun _ _ => ⟨_, _, rfl, rfl⟩

theorem daa : Statement (.daa) := fun _ _ => ⟨_, _, rfl, rfl⟩

theorem cpl : Statement (.cpl) := fun _ _ => ⟨_, _, rfl, rfl⟩

theorem scf : Statement (.scf) := fun _ _ => ⟨_, _, rfl, rfl⟩

theorem ccf : Statement (.ccf) := fun _ _ => ⟨_, _, rfl, rfl⟩

theorem incRr (p : Reg16) : Statement (.incRr p) := by
  intro _ _
  cases p <;> exact ⟨_, _, rfl, rfl⟩

theorem decRr (p : Reg16) : Statement (.decRr p) := by
  intro _ _
  cases p <;> exact ⟨_, _, rfl, rfl⟩

theorem addHlRr (p : Reg16) : Statement (.addHlRr p) := by
  intro _ _
  cases p <;> exact ⟨_, _, rfl, rfl⟩

theorem addSpR8 (e : Byte) : Statement (.addSpR8 e) := fun _ _ => ⟨_, _, rfl, rfl⟩

theorem rlca : Statement (.rlca) := fun _ _ => ⟨_, _, rfl, rfl⟩

theorem rrca : Statement (.rrca) := fun _ _ => ⟨_, _, rfl, rfl⟩

theorem rla : Statement (.rla) := fun _ _ => ⟨_, _, rfl, rfl⟩

theorem rra : Statement (.rra) := fun _ _ => ⟨_, _, rfl, rfl⟩

theorem rlcR (s : Reg8) : Statement (.rlcR s) := fun _ _ => ⟨_, _, rfl, rfl⟩

theorem rlcHl : Statement (.rlcHl) := fun _ _ => ⟨_, _, rfl, rfl⟩

theorem rrcR (s : Reg8) : Statement (.rrcR s) := fun _ _ => ⟨_, _, rfl, rfl⟩

theorem rrcHl : Statement (.rrcHl) := fun _ _ => ⟨_, _, rfl, rfl⟩

theorem rlR (s : Reg8) : Statement (.rlR s) := fun _ _ => ⟨_, _, rfl, rfl⟩

theorem rlHl : Statement (.rlHl) := fun _ _ => ⟨_, _, rfl, rfl⟩

theorem rrR (s : Reg8) : Statement (.rrR s) := fun _ _ => ⟨_, _, rfl, rfl⟩

theorem rrHl : Statement (.rrHl) := fun _ _ => ⟨_, _, rfl, rfl⟩

theorem slaR (s : Reg8) : Statement (.slaR s) := fun _ _ => ⟨_, _, rfl, rfl⟩

theorem slaHl : Statement (.slaHl) := fun _ _ => ⟨_, _, rfl, rfl⟩

theorem sraR (s : Reg8) : Statement (.sraR s) := fun _ _ => ⟨_, _, rfl, rfl⟩

theorem sraHl : Statement (.sraHl) := fun _ _ => ⟨_, _, rfl, rfl⟩

theorem swapR (s : Reg8) : Statement (.swapR s) := fun _ _ => ⟨_, _, rfl, rfl⟩

theorem swapHl : Statement (.swapHl) := fun _ _ => ⟨_, _, rfl, rfl⟩

theorem srlR (s : Reg8) : Statement (.srlR s) := fun _ _ => ⟨_, _, rfl, rfl⟩

theorem srlHl : Statement (.srlHl) := fun _ _ => ⟨_, _, rfl, rfl⟩

theorem bitR (b : Fin 8) (s : Reg8) : Statement (.bitR b s) := fun _ _ => ⟨_, _, rfl, rfl⟩

theorem bitHl (b : Fin 8) : Statement (.bitHl b) := fun _ _ => ⟨_, _, rfl, rfl⟩

theorem resR (b : Fin 8) (s : Reg8) : Statement (.resR b s) := fun _ _ => ⟨_, _, rfl, rfl⟩

theorem resHl (b : Fin 8) : Statement (.resHl b) := fun _ _ => ⟨_, _, rfl, rfl⟩

theorem setR (b : Fin 8) (s : Reg8) : Statement (.setR b s) := fun _ _ => ⟨_, _, rfl, rfl⟩

theorem setHl (b : Fin 8) : Statement (.setHl b) := fun _ _ => ⟨_, _, rfl, rfl⟩

theorem jpA16 (nn : Word) : Statement (.jpA16 nn) := fun _ _ => ⟨_, _, rfl, rfl⟩

theorem jpCc (cc : Cond) (nn : Word) : Statement (.jpCc cc nn) := by
  intro _ _
  cases cc <;> exact ⟨_, _, rfl, rfl⟩

theorem jpHl : Statement (.jpHl) := fun _ _ => ⟨_, _, rfl, rfl⟩

theorem jrR8 (e : Byte) : Statement (.jrR8 e) := fun _ _ => ⟨_, _, rfl, rfl⟩

theorem jrCc (cc : Cond) (e : Byte) : Statement (.jrCc cc e) := by
  intro _ _
  cases cc <;> exact ⟨_, _, rfl, rfl⟩

theorem callA16 (nn : Word) : Statement (.callA16 nn) := fun _ _ => ⟨_, _, rfl, rfl⟩

theorem callCc (cc : Cond) (nn : Word) : Statement (.callCc cc nn) := by
  intro _ _
  cases cc <;> exact ⟨_, _, rfl, rfl⟩

theorem ret : Statement (.ret) := fun _ _ => ⟨_, _, rfl, rfl⟩

theorem retCc (cc : Cond) : Statement (.retCc cc) := by
  intro _ _
  cases cc <;> exact ⟨_, _, rfl, rfl⟩

theorem reti : Statement (.reti) := fun _ _ => ⟨_, _, rfl, rfl⟩

theorem rst (t : Fin 8) : Statement (.rst t) := by
  intro _ _
  have key : ∀ t : Fin 8, 1 = entryLength (primaryTable (byteXYZ 0b11 (literalCode t) 0b111)) := by decide
  exact ⟨_, [], rfl, key t⟩

theorem nop : Statement (.nop) := fun _ _ => ⟨_, _, rfl, rfl⟩

theorem stop (n : Byte) : Statement (.stop n) := fun _ _ => ⟨_, _, rfl, rfl⟩

theorem halt : Statement (.halt) := fun _ _ => ⟨_, _, rfl, rfl⟩

theorem di : Statement (.di) := fun _ _ => ⟨_, _, rfl, rfl⟩

theorem ei : Statement (.ei) := fun _ _ => ⟨_, _, rfl, rfl⟩

theorem prefixCb : Statement (.prefixCb) := fun _ h => absurd rfl h

theorem illegal (op : Byte) : Statement (.illegal op) := by
  intro h _
  have key : ∀ b : Byte, b ∈ illegalOpcodes → 1 = entryLength (primaryTable b) := by decide
  exact ⟨op, [], rfl, key op (by simpa [Instr.wellFormed] using h)⟩

end Sys2Proof.Laws.Length
end

