-- ==== Sys2Proof/Tests/Slice0.lean ====
section
/-! SUPPORT. The model's own tests. The expected results are the spec's: words from the `encoding` column of
`spec/opcode_table.json`, single Steps from the vectors of `95_test_vectors.md` (a test bears the vector's id). Then,
for every statement with hypotheses, states and operands that meet them together, clause by clause. -/

open Sys2Proof Sys2Proof.Machine

/-! ## Helpers -/

/-- The base state's registers in `95_test_vectors.md`. -/
def boot : Regs := { Regs.reset true with pc := 0xC100 }

/-- The base state of `95_test_vectors.md` with the registers `g` and the code `bytes` at PC. -/
def start (g : Regs) (bytes : List Byte) : State :=
  { regs := g, intc := IntCtl.reset, timer := Timer.reset, halted := false
    mem := placeBytes [] g.pc bytes, fault := none, stubRead := 0xFF, requests := [] }

def put (cells : List (Nat × Byte)) (s : State) : State :=
  { s with mem := cells.foldl (fun m x => Memory.write m x.1 x.2) s.mem }

def ints (c : IntCtl) (s : State) : State := { s with intc := c }

def clock (t : Timer) (s : State) : State := { s with timer := t }

def halt (s : State) : State := { s with halted := true }

/-- What is seen of a next state; `none` for a fault or a refusal. -/
def after {α : Type} (r : Result) (f : State → α) : Option α :=
  match r with
  | .next t => some (f t)
  | .fault _ => none
  | .refused _ => none

theorem answers_next {r : Result} (h : after r (fun _ => ()) = some ()) : ∃ t, r = .next t := by
  cases r with
  | next t => exact ⟨t, rfl⟩
  | fault f => cases h
  | refused f => cases h

/-! ## Well-formedness -/

theorem test_wellFormed_refuses_illegal_00 : (Instr.illegal 0x00).wellFormed = false := by decide
theorem test_wellFormed_refuses_illegal_CB : (Instr.illegal 0xCB).wellFormed = false := by decide
theorem test_wellFormed_accepts_illegal_FD : (Instr.illegal 0xFD).wellFormed = true := by decide

/-! ## Decoding -/

theorem test_decode_load8_1 :
    decode [0b01011111] = .instr (.ldRR .e .a) [] ∧
    decode [0b01010110] = .instr (.ldRHl .d) [] ∧
    decode [0b01110101] = .instr (.ldHlR .l) [] ∧
    decode [0b00001110, 0x98] = .instr (.ldRD8 .c 0x98) [] ∧
    decode [0b00110110, 0xAF] = .instr (.ldHlD8 0xAF) [] ∧
    decode [0b00001010] = .instr .ldABc [] ∧
    decode [0b00011010] = .instr .ldADe [] ∧
    decode [0b00000010] = .instr .ldBcA [] ∧
    decode [0b00010010] = .instr .ldDeA [] ∧
    decode [0b00100010] = .instr .ldHliA [] ∧
    decode [0b00110010] = .instr .ldHldA [] ∧
    decode [0b00101010] = .instr .ldAHli [] ∧
    decode [0b00111010] = .instr .ldAHld [] ∧
    decode [0b11100000, 0xC6] = .instr (.ldhA8A 0xC6) [] := by decide

theorem test_decode_load8_2 :
    decode [0b11110000, 0xDD] = .instr (.ldhAA8 0xDD) [] ∧
    decode [0b11100010] = .instr .ldCA [] ∧
    decode [0b11110010] = .instr .ldAC [] ∧
    decode [0b11101010, 0xE7, 0x72] = .instr (.ldA16A 0x72E7) [] ∧
    decode [0b11111010, 0x3E, 0x86] = .instr (.ldAA16 0x863E) [] := by decide

theorem test_decode_load16 :
    decode [0b00110001, 0x95, 0x99] = .instr (.ldRrD16 .sp 0x9995) [] ∧
    decode [0b00001000, 0xEC, 0xAC] = .instr (.ldA16Sp 0xACEC) [] ∧
    decode [0b11111001] = .instr .ldSpHl [] ∧
    decode [0b11111000, 0x50] = .instr (.ldHlSpR8 0x50) [] ∧
    decode [0b11100101] = .instr (.pushRr .hl) [] ∧
    decode [0b11000001] = .instr (.popRr .bc) [] ∧
    decode [0b11110001] = .instr .popAf [] := by decide

theorem test_decode_alu8_1 :
    decode [0b10000100] = .instr (.addR .h) [] ∧
    decode [0b10000110] = .instr .addHl [] ∧
    decode [0b11000110, 0x67] = .instr (.addD8 0x67) [] ∧
    decode [0b10001000] = .instr (.adcR .b) [] ∧
    decode [0b10001110] = .instr .adcHl [] ∧
    decode [0b11001110, 0x7E] = .instr (.adcD8 0x7E) [] ∧
    decode [0b10010011] = .instr (.subR .e) [] ∧
    decode [0b10010110] = .instr .subHl [] ∧
    decode [0b11010110, 0x95] = .instr (.subD8 0x95) [] ∧
    decode [0b10011111] = .instr (.sbcR .a) [] ∧
    decode [0b10011110] = .instr .sbcHl [] ∧
    decode [0b11011110, 0xAC] = .instr (.sbcD8 0xAC) [] ∧
    decode [0b10100010] = .instr (.andR .d) [] ∧
    decode [0b10100110] = .instr .andHl [] := by decide

theorem test_decode_alu8_2 :
    decode [0b11100110, 0xC3] = .instr (.andD8 0xC3) [] ∧
    decode [0b10101101] = .instr (.xorR .l) [] ∧
    decode [0b10101110] = .instr .xorHl [] ∧
    decode [0b11101110, 0xDA] = .instr (.xorD8 0xDA) [] ∧
    decode [0b10110001] = .instr (.orR .c) [] ∧
    decode [0b10110110] = .instr .orHl [] ∧
    decode [0b11110110, 0xF1] = .instr (.orD8 0xF1) [] ∧
    decode [0b10111100] = .instr (.cpR .h) [] ∧
    decode [0b10111110] = .instr .cpHl [] ∧
    decode [0b11111110, 0x08] = .instr (.cpD8 0x08) [] ∧
    decode [0b00000100] = .instr (.incR .b) [] ∧
    decode [0b00110100] = .instr .incHl [] ∧
    decode [0b00011101] = .instr (.decR .e) [] ∧
    decode [0b00110101] = .instr .decHl [] := by decide

theorem test_decode_alu8_3 :
    decode [0b00100111] = .instr .daa [] ∧
    decode [0b00101111] = .instr .cpl [] ∧
    decode [0b00110111] = .instr .scf [] ∧
    decode [0b00111111] = .instr .ccf [] := by decide

theorem test_decode_alu16 :
    decode [0b00000011] = .instr (.incRr .bc) [] ∧
    decode [0b00111011] = .instr (.decRr .sp) [] ∧
    decode [0b00101001] = .instr (.addHlRr .hl) [] ∧
    decode [0b11101000, 0x1F] = .instr (.addSpR8 0x1F) [] := by decide

theorem test_decode_rotate_1 :
    decode [0b00000111] = .instr .rlca [] ∧
    decode [0b00001111] = .instr .rrca [] ∧
    decode [0b00010111] = .instr .rla [] ∧
    decode [0b00011111] = .instr .rra [] ∧
    decode [0b11001011, 0b00000111] = .instr (.rlcR .a) [] ∧
    decode [0b11001011, 0b00000110] = .instr .rlcHl [] ∧
    decode [0b11001011, 0b00001010] = .instr (.rrcR .d) [] ∧
    decode [0b11001011, 0b00001110] = .instr .rrcHl [] ∧
    decode [0b11001011, 0b00010101] = .instr (.rlR .l) [] ∧
    decode [0b11001011, 0b00010110] = .instr .rlHl [] ∧
    decode [0b11001011, 0b00011001] = .instr (.rrR .c) [] ∧
    decode [0b11001011, 0b00011110] = .instr .rrHl [] ∧
    decode [0b11001011, 0b00100100] = .instr (.slaR .h) [] ∧
    decode [0b11001011, 0b00100110] = .instr .slaHl [] := by decide

theorem test_decode_rotate_2 :
    decode [0b11001011, 0b00101000] = .instr (.sraR .b) [] ∧
    decode [0b11001011, 0b00101110] = .instr .sraHl [] ∧
    decode [0b11001011, 0b00110011] = .instr (.swapR .e) [] ∧
    decode [0b11001011, 0b00110110] = .instr .swapHl [] ∧
    decode [0b11001011, 0b00111111] = .instr (.srlR .a) [] ∧
    decode [0b11001011, 0b00111110] = .instr .srlHl [] := by decide

theorem test_decode_bit :
    decode [0b11001011, 0b01101010] = .instr (.bitR 5 .d) [] ∧
    decode [0b11001011, 0b01010110] = .instr (.bitHl 2) [] ∧
    decode [0b11001011, 0b10111101] = .instr (.resR 7 .l) [] ∧
    decode [0b11001011, 0b10100110] = .instr (.resHl 4) [] ∧
    decode [0b11001011, 0b11001001] = .instr (.setR 1 .c) [] ∧
    decode [0b11001011, 0b11110110] = .instr (.setHl 6) [] := by decide

theorem test_decode_control :
    decode [0b11000011, 0xA9, 0x81] = .instr (.jpA16 0x81A9) [] ∧
    decode [0b11011010, 0x00, 0x95] = .instr (.jpCc .c 0x9500) [] ∧
    decode [0b11101001] = .instr .jpHl [] ∧
    decode [0b00011000, 0x64] = .instr (.jrR8 0x64) [] ∧
    decode [0b00110000, 0x7B] = .instr (.jrCc .nc 0x7B) [] ∧
    decode [0b11001101, 0x05, 0xCF] = .instr (.callA16 0xCF05) [] ∧
    decode [0b11001100, 0x5C, 0xE2] = .instr (.callCc .z 0xE25C) [] ∧
    decode [0b11001001] = .instr .ret [] ∧
    decode [0b11000000] = .instr (.retCc .nz) [] ∧
    decode [0b11011001] = .instr .reti [] ∧
    decode [0b11011111] = .instr (.rst 3) [] := by decide

theorem test_decode_system :
    decode [0b00000000] = .instr .nop [] ∧
    decode [0b00010000, 0xC0] = .instr (.stop 0xC0) [] ∧
    decode [0b01110110] = .instr .halt [] ∧
    decode [0b11110011] = .instr .di [] ∧
    decode [0b11111011] = .instr .ei [] ∧
    decode [0b11001011] = .instr .prefixCb [] ∧
    decode [0b11101011] = .instr (.illegal 0xEB) [] := by decide

theorem test_decode_cb_cb_is_a_secondary_opcode : decode [0b11001011, 0b11001011] = .instr (.setR 1 .e) [] := by decide
theorem test_decode_refuses_no_bytes : decode [] = .reject .noByte := by decide
theorem test_decode_refuses_missing_operand : decode [0xC3, 0x50] = .reject (.operandMissing 0xC3) := by decide

/-! ## The host's view -/

theorem test_withFetchWord_runs_first :
    after (step (State.reset.withFetchWord 16 0x123E)) (fun t => (t.regs.a, t.regs.pc)) = some (0x12, 0x0102) := by decide
theorem test_withFetchWord_ends_a_halt :
    after (step ((halt State.reset).withFetchWord 8 0x3C)) (fun t => (t.regs.a, t.halted)) = some (0x02, false) := by decide
theorem test_decodeTableWord_operands_of_zeros : decodeTableWord 8 0xC3 = some (.jpA16 0x0000) := by decide
theorem test_decodeTableWord_second_byte_high : decodeTableWord 16 0x37CB = some (.swapR .a) := by decide

/-! ## Single Steps, by vector -/

set_option maxRecDepth 8000

theorem test_LD1_LD_B_C :
    after (step (start { boot with c := 0x77 } [0x41])) (fun t => (t.regs.b, t.regs.pc, t.timer.div)) =
      some (0x77, 0xC101, 0x0004) := by decide

theorem test_LD4_LD_E_HL :
    after (step (put [(0xC000, 0x9C)] (start { boot with h := 0xC0, l := 0x00 } [0x5E]))) (fun t => (t.regs.e, t.regs.pc, t.timer.div)) =
      some (0x9C, 0xC101, 0x0008) := by decide

theorem test_LD8_LD_HL_D :
    after (step (start { boot with h := 0xC0, l := 0x05, d := 0x3C } [0x72])) (fun t => (t.regs.pc, t.timer.div, busRead t 0xC005)) =
      some (0xC101, 0x0008, some 0x3C) := by decide

theorem test_LD12_LD_C_d8 :
    after (step (start boot [0x0E, 0xFE])) (fun t => (t.regs.c, t.regs.pc, t.timer.div)) =
      some (0xFE, 0xC102, 0x0008) := by decide

theorem test_LD13_LD_HL_d8 :
    after (step (start { boot with h := 0xFF, l := 0x80 } [0x36, 0x99])) (fun t => (t.regs.pc, t.timer.div, busRead t 0xFF80)) =
      some (0xC102, 0x000C, some 0x99) := by decide

theorem test_LD14_LD_A_BC :
    after (step (put [(0xC020, 0x11)] (start { boot with b := 0xC0, c := 0x20 } [0x0A]))) (fun t => (t.regs.a, t.regs.pc, t.timer.div)) =
      some (0x11, 0xC101, 0x0008) := by decide

theorem test_LD15_LD_A_DE :
    after (step (put [(0xFF85, 0x12)] (start { boot with d := 0xFF, e := 0x85 } [0x1A]))) (fun t => (t.regs.a, t.regs.pc, t.timer.div)) =
      some (0x12, 0xC101, 0x0008) := by decide

theorem test_LD16_LD_BC_A :
    after (step (start { boot with b := 0xA0, c := 0x00, a := 0xEE } [0x02])) (fun t => (t.regs.pc, t.timer.div, busRead t 0xA000)) =
      some (0xC101, 0x0008, some 0xEE) := by decide

theorem test_LD17_LD_DE_A :
    after (step (start { boot with d := 0xDF, e := 0xFF, a := 0xEF } [0x12])) (fun t => (t.regs.pc, t.timer.div, busRead t 0xDFFF)) =
      some (0xC101, 0x0008, some 0xEF) := by decide

theorem test_LD18_LD_HL_A :
    after (step (start { boot with h := 0xC0, l := 0xFF, a := 0x42 } [0x22])) (fun t => ((t.regs.h, t.regs.l, t.regs.pc), (t.timer.div, busRead t 0xC0FF))) =
      some ((0xC1, 0x00, 0xC101), (0x0008, some 0x42)) := by decide

theorem test_LD20_LD_HL_A :
    after (step (start { boot with h := 0xC0, l := 0x00, a := 0x42 } [0x32])) (fun t => ((t.regs.h, t.regs.l, t.regs.pc), (t.timer.div, busRead t 0xC000))) =
      some ((0xBF, 0xFF, 0xC101), (0x0008, some 0x42)) := by decide

theorem test_LD22_LD_A_HL :
    after (step (put [(0xC0FF, 0x66)] (start { boot with h := 0xC0, l := 0xFF } [0x2A]))) (fun t => ((t.regs.a, t.regs.h, t.regs.l), (t.regs.pc, t.timer.div))) =
      some ((0x66, 0xC1, 0x00), (0xC101, 0x0008)) := by decide

theorem test_LD23_LD_A_HL :
    after (step (put [(0xC000, 0x67)] (start { boot with h := 0xC0, l := 0x00 } [0x3A]))) (fun t => ((t.regs.a, t.regs.h, t.regs.l), (t.regs.pc, t.timer.div))) =
      some ((0x67, 0xBF, 0xFF), (0xC101, 0x0008)) := by decide

theorem test_LD24_LDH_a8_A_to_HRAM :
    after (step (start { boot with a := 0x5A } [0xE0, 0x80])) (fun t => (t.regs.pc, t.timer.div, busRead t 0xFF80)) =
      some (0xC102, 0x000C, some 0x5A) := by decide

theorem test_LD28_LDH_A_a8_from_DIV :
    after (step (clock { Timer.reset with div := 0xAB34 } (start boot [0xF0, 0x04]))) (fun t => (t.regs.a, t.regs.pc, t.timer.div)) =
      some (0xAB, 0xC102, 0xAB40) := by decide

theorem test_LD31_LD_C_A :
    after (step (start { boot with c := 0x81, a := 0x77 } [0xE2])) (fun t => (t.regs.pc, t.timer.div, busRead t 0xFF81)) =
      some (0xC101, 0x0008, some 0x77) := by decide

theorem test_LD32_LD_A_C :
    after (step (clock { Timer.reset with tima := 0x3D } (start { boot with c := 0x05 } [0xF2]))) (fun t => (t.regs.a, t.regs.pc, t.timer.div)) =
      some (0x3D, 0xC101, 0x0008) := by decide

theorem test_LD33_LD_a16_A :
    after (step (start { boot with a := 0x88 } [0xEA, 0x34, 0xC2])) (fun t => (t.regs.pc, t.timer.div, busRead t 0xC234)) =
      some (0xC103, 0x0010, some 0x88) := by decide

theorem test_LD35_LD_A_a16 :
    after (step (put [(0xA000, 0x21)] (start boot [0xFA, 0x00, 0xA0]))) (fun t => (t.regs.a, t.regs.pc, t.timer.div)) =
      some (0x21, 0xC103, 0x0010) := by decide

theorem test_ST1_LD_BC_d16 :
    after (step (start boot [0x01, 0x34, 0x12])) (fun t => (t.regs.b, t.regs.c, t.regs.pc, t.timer.div)) =
      some (0x12, 0x34, 0xC103, 0x000C) := by decide

theorem test_ST3_LD_a16_SP :
    after (step (start { boot with sp := 0xFFF8 } [0x08, 0x00, 0xC2])) (fun t => (t.regs.pc, t.timer.div, busRead t 0xC200, busRead t 0xC201)) =
      some (0xC103, 0x0014, some 0xF8, some 0xFF) := by decide

theorem test_ST5_LD_SP_HL :
    after (step (start { boot with h := 0xD0, l := 0x00 } [0xF9])) (fun t => (t.regs.sp, t.regs.pc, t.timer.div)) =
      some (0xD000, 0xC101, 0x0008) := by decide

theorem test_ST6_LD_HL_SP_r8 :
    after (step (start { boot with sp := 0xFFF8, f := 0xF0 } [0xF8, 0x08])) (fun t => ((t.regs.f, t.regs.h, t.regs.l), (t.regs.pc, t.timer.div))) =
      some ((0x30, 0x00, 0x00), (0xC102, 0x000C)) := by decide

theorem test_ST10_PUSH_BC :
    after (step (start { boot with b := 0x12, c := 0x34 } [0xC5])) (fun t => ((t.regs.sp, t.regs.pc, t.timer.div), (busRead t 0xFFFC, busRead t 0xFFFD))) =
      some ((0xFFFC, 0xC101, 0x0010), (some 0x34, some 0x12)) := by decide

theorem test_ST14_POP_DE :
    after (step (put [(0xFFFC, 0x34), (0xFFFD, 0x12)] (start { boot with sp := 0xFFFC } [0xD1]))) (fun t => ((t.regs.d, t.regs.e, t.regs.sp), (t.regs.pc, t.timer.div))) =
      some ((0x12, 0x34, 0xFFFE), (0xC101, 0x000C)) := by decide

theorem test_ST16_POP_AF :
    after (step (put [(0xC200, 0xFF), (0xC201, 0x00)] (start { boot with sp := 0xC200 } [0xF1]))) (fun t => ((t.regs.a, t.regs.f, t.regs.sp), (t.regs.pc, t.timer.div))) =
      some ((0x00, 0xF0, 0xC202), (0xC101, 0x000C)) := by decide

theorem test_AL1_ADD_A_B :
    after (step (start { boot with a := 0xFF, b := 0x01, f := 0x00 } [0x80])) (fun t => (t.regs.a, t.regs.f, t.regs.pc, t.timer.div)) =
      some (0x00, 0xB0, 0xC101, 0x0004) := by decide

theorem test_AL4_ADD_A_HL :
    after (step (put [(0xC000, 0xC6)] (start { boot with a := 0x3A, h := 0xC0, l := 0x00, f := 0x00 } [0x86]))) (fun t => (t.regs.a, t.regs.f, t.regs.pc, t.timer.div)) =
      some (0x00, 0xB0, 0xC101, 0x0008) := by decide

theorem test_AL5_ADD_A_d8 :
    after (step (start { boot with a := 0x01, f := 0x10 } [0xC6, 0x7F])) (fun t => (t.regs.a, t.regs.f, t.regs.pc, t.timer.div)) =
      some (0x80, 0x20, 0xC102, 0x0008) := by decide

theorem test_AL7_ADC_A_C :
    after (step (start { boot with a := 0x0F, c := 0x00, f := 0x10 } [0x89])) (fun t => (t.regs.a, t.regs.f, t.regs.pc, t.timer.div)) =
      some (0x10, 0x20, 0xC101, 0x0004) := by decide

theorem test_AL8_ADC_A_HL :
    after (step (put [(0xC000, 0xFF)] (start { boot with a := 0x00, h := 0xC0, l := 0x00, f := 0x10 } [0x8E]))) (fun t => (t.regs.f, t.regs.pc, t.timer.div)) =
      some (0xB0, 0xC101, 0x0008) := by decide

theorem test_AL9_ADC_A_d8 :
    after (step (start { boot with a := 0xFF, f := 0x10 } [0xCE, 0x00])) (fun t => (t.regs.a, t.regs.f, t.regs.pc, t.timer.div)) =
      some (0x00, 0xB0, 0xC102, 0x0008) := by decide

theorem test_AL10_SUB_A_D :
    after (step (start { boot with a := 0x00, d := 0x01, f := 0x00 } [0x92])) (fun t => (t.regs.a, t.regs.f, t.regs.pc, t.timer.div)) =
      some (0xFF, 0x70, 0xC101, 0x0004) := by decide

theorem test_AL13_SUB_A_HL :
    after (step (put [(0xC000, 0x40)] (start { boot with a := 0x3E, h := 0xC0, l := 0x00, f := 0x00 } [0x96]))) (fun t => (t.regs.a, t.regs.f, t.regs.pc, t.timer.div)) =
      some (0xFE, 0x50, 0xC101, 0x0008) := by decide

theorem test_AL14_SUB_A_d8 :
    after (step (start { boot with a := 0x3E, f := 0x00 } [0xD6, 0x0F])) (fun t => (t.regs.a, t.regs.f, t.regs.pc, t.timer.div)) =
      some (0x2F, 0x60, 0xC102, 0x0008) := by decide

theorem test_AL15_SBC_A_E :
    after (step (start { boot with a := 0x00, e := 0x00, f := 0x10 } [0x9B])) (fun t => (t.regs.a, t.regs.f, t.regs.pc, t.timer.div)) =
      some (0xFF, 0x70, 0xC101, 0x0004) := by decide

theorem test_AL18_SBC_A_HL :
    after (step (put [(0xC000, 0x4F)] (start { boot with a := 0x3B, h := 0xC0, l := 0x00, f := 0x10 } [0x9E]))) (fun t => (t.regs.a, t.regs.f, t.regs.pc, t.timer.div)) =
      some (0xEB, 0x70, 0xC101, 0x0008) := by decide

theorem test_AL19_SBC_A_d8 :
    after (step (start { boot with a := 0x3B, f := 0x10 } [0xDE, 0x3A])) (fun t => (t.regs.a, t.regs.f, t.regs.pc, t.timer.div)) =
      some (0x00, 0xC0, 0xC102, 0x0008) := by decide

theorem test_AL20_AND_A_H :
    after (step (start { boot with a := 0x5A, h := 0x3F, f := 0x10 } [0xA4])) (fun t => (t.regs.a, t.regs.f, t.regs.pc, t.timer.div)) =
      some (0x1A, 0x20, 0xC101, 0x0004) := by decide

theorem test_AL21_AND_A_HL :
    after (step (put [(0xC000, 0xA5)] (start { boot with a := 0x5A, h := 0xC0, l := 0x00, f := 0x50 } [0xA6]))) (fun t => (t.regs.a, t.regs.f, t.regs.pc, t.timer.div)) =
      some (0x00, 0xA0, 0xC101, 0x0008) := by decide

theorem test_AL22_AND_A_d8 :
    after (step (start { boot with a := 0x5A, f := 0x00 } [0xE6, 0x38])) (fun t => (t.regs.a, t.regs.f, t.regs.pc, t.timer.div)) =
      some (0x18, 0x20, 0xC102, 0x0008) := by decide

theorem test_AL23_XOR_A_A :
    after (step (start { boot with a := 0x5A, f := 0xF0 } [0xAF])) (fun t => (t.regs.a, t.regs.f, t.regs.pc, t.timer.div)) =
      some (0x00, 0x80, 0xC101, 0x0004) := by decide

theorem test_AL25_XOR_A_HL :
    after (step (put [(0xC000, 0x8A)] (start { boot with a := 0xFF, h := 0xC0, l := 0x00, f := 0x00 } [0xAE]))) (fun t => (t.regs.a, t.regs.pc, t.timer.div)) =
      some (0x75, 0xC101, 0x0008) := by decide

theorem test_AL26_XOR_A_d8 :
    after (step (start { boot with a := 0xFF, f := 0x00 } [0xEE, 0xFF])) (fun t => (t.regs.a, t.regs.f, t.regs.pc, t.timer.div)) =
      some (0x00, 0x80, 0xC102, 0x0008) := by decide

theorem test_AL27_OR_A_B :
    after (step (start { boot with a := 0x00, b := 0x00, f := 0x70 } [0xB0])) (fun t => (t.regs.f, t.regs.pc, t.timer.div)) =
      some (0x80, 0xC101, 0x0004) := by decide

theorem test_AL28_OR_A_HL :
    after (step (put [(0xC000, 0x0F)] (start { boot with a := 0x5A, h := 0xC0, l := 0x00, f := 0x00 } [0xB6]))) (fun t => (t.regs.a, t.regs.pc, t.timer.div)) =
      some (0x5F, 0xC101, 0x0008) := by decide

theorem test_AL29_OR_A_d8 :
    after (step (start { boot with a := 0x5A, f := 0xF0 } [0xF6, 0x03])) (fun t => (t.regs.a, t.regs.f, t.regs.pc, t.timer.div)) =
      some (0x5B, 0x00, 0xC102, 0x0008) := by decide

theorem test_AL30_CP_A_B_equal :
    after (step (start { boot with a := 0x3C, b := 0x3C, f := 0x00 } [0xB8])) (fun t => (t.regs.f, t.regs.pc, t.timer.div)) =
      some (0xC0, 0xC101, 0x0004) := by decide

theorem test_AL32_CP_A_HL :
    after (step (put [(0xC000, 0x2F)] (start { boot with a := 0x3C, h := 0xC0, l := 0x00, f := 0x00 } [0xBE]))) (fun t => (t.regs.f, t.regs.pc, t.timer.div)) =
      some (0x60, 0xC101, 0x0008) := by decide

theorem test_AL33_CP_A_d8 :
    after (step (start { boot with a := 0x90, f := 0x10 } [0xFE, 0x90])) (fun t => (t.regs.f, t.regs.pc, t.timer.div)) =
      some (0xC0, 0xC102, 0x0008) := by decide

theorem test_AL34_INC_B :
    after (step (start { boot with b := 0xFF, f := 0x10 } [0x04])) (fun t => (t.regs.f, t.regs.b, t.regs.pc, t.timer.div)) =
      some (0xB0, 0x00, 0xC101, 0x0004) := by decide

theorem test_AL37_INC_HL :
    after (step (put [(0xC000, 0x4F)] (start { boot with h := 0xC0, l := 0x00, f := 0x00 } [0x34]))) (fun t => (t.regs.f, t.regs.pc, t.timer.div, busRead t 0xC000)) =
      some (0x20, 0xC101, 0x000C, some 0x50) := by decide

theorem test_AL39_DEC_B :
    after (step (start { boot with b := 0x00, f := 0x00 } [0x05])) (fun t => (t.regs.f, t.regs.b, t.regs.pc, t.timer.div)) =
      some (0x60, 0xFF, 0xC101, 0x0004) := by decide

theorem test_AL42_DEC_HL :
    after (step (put [(0xC000, 0x00)] (start { boot with h := 0xC0, l := 0x00, f := 0x10 } [0x35]))) (fun t => (t.regs.f, t.regs.pc, t.timer.div, busRead t 0xC000)) =
      some (0x70, 0xC101, 0x000C, some 0xFF) := by decide

theorem test_AL44_DAA_after_add :
    after (step (start { boot with a := 0x9A, f := 0x00 } [0x27])) (fun t => (t.regs.a, t.regs.f, t.regs.pc, t.timer.div)) =
      some (0x00, 0x90, 0xC101, 0x0004) := by decide

theorem test_AL43_DAA_after_add :
    after (step (start { boot with a := 0x7D, f := 0x00 } [0x27])) (fun t => (t.regs.a, t.regs.pc, t.timer.div)) =
      some (0x83, 0xC101, 0x0004) := by decide

theorem test_AL52_CPL :
    after (step (start { boot with a := 0x35, f := 0x90 } [0x2F])) (fun t => (t.regs.a, t.regs.f, t.regs.pc, t.timer.div)) =
      some (0xCA, 0xF0, 0xC101, 0x0004) := by decide

theorem test_AL53_SCF :
    after (step (start { boot with f := 0xE0 } [0x37])) (fun t => (t.regs.f, t.regs.pc, t.timer.div)) =
      some (0x90, 0xC101, 0x0004) := by decide

theorem test_AL54_CCF :
    after (step (start { boot with f := 0xF0 } [0x3F])) (fun t => (t.regs.f, t.regs.pc, t.timer.div)) =
      some (0x80, 0xC101, 0x0004) := by decide

theorem test_AW1_INC_BC :
    after (step (start { boot with b := 0xFF, c := 0xFF, f := 0x00 } [0x03])) (fun t => (t.regs.b, t.regs.c, t.regs.pc, t.timer.div)) =
      some (0x00, 0x00, 0xC101, 0x0008) := by decide

theorem test_AW3_DEC_DE :
    after (step (start { boot with d := 0x00, e := 0x00, f := 0xF0 } [0x1B])) (fun t => (t.regs.d, t.regs.e, t.regs.pc, t.timer.div)) =
      some (0xFF, 0xFF, 0xC101, 0x0008) := by decide

theorem test_AW5_ADD_HL_BC :
    after (step (start { boot with h := 0x0F, l := 0xFF, b := 0x00, c := 0x01, f := 0x80 } [0x09])) (fun t => ((t.regs.f, t.regs.h, t.regs.l), (t.regs.pc, t.timer.div))) =
      some ((0xA0, 0x10, 0x00), (0xC101, 0x0008)) := by decide

theorem test_AW10_ADD_SP_r8 :
    after (step (start { boot with sp := 0xFFF8, f := 0xF0 } [0xE8, 0x08])) (fun t => (t.regs.f, t.regs.sp, t.regs.pc, t.timer.div)) =
      some (0x30, 0x0000, 0xC102, 0x0010) := by decide

theorem test_RS1_RLCA :
    after (step (start { boot with a := 0x85, f := 0x00 } [0x07])) (fun t => (t.regs.a, t.regs.f, t.regs.pc, t.timer.div)) =
      some (0x0B, 0x10, 0xC101, 0x0004) := by decide

theorem test_RS3_RRCA :
    after (step (start { boot with a := 0x01, f := 0x00 } [0x0F])) (fun t => (t.regs.a, t.regs.f, t.regs.pc, t.timer.div)) =
      some (0x80, 0x10, 0xC101, 0x0004) := by decide

theorem test_RS4_RLA :
    after (step (start { boot with a := 0x80, f := 0x00 } [0x17])) (fun t => (t.regs.a, t.regs.f, t.regs.pc, t.timer.div)) =
      some (0x00, 0x10, 0xC101, 0x0004) := by decide

theorem test_RS6_RRA :
    after (step (start { boot with a := 0x01, f := 0x00 } [0x1F])) (fun t => (t.regs.a, t.regs.f, t.regs.pc, t.timer.div)) =
      some (0x00, 0x10, 0xC101, 0x0004) := by decide

theorem test_RS8_RLC_C :
    after (step (start { boot with c := 0x80, f := 0x00 } [0xCB, 0x01])) (fun t => (t.regs.f, t.regs.c, t.regs.pc, t.timer.div)) =
      some (0x10, 0x01, 0xC102, 0x0008) := by decide

theorem test_RS10_RLC_HL :
    after (step (put [(0xC000, 0x85)] (start { boot with h := 0xC0, l := 0x00, f := 0x00 } [0xCB, 0x06]))) (fun t => (t.regs.f, t.regs.pc, t.timer.div, busRead t 0xC000)) =
      some (0x10, 0xC102, 0x0010, some 0x0B) := by decide

theorem test_RS11_RRC_D :
    after (step (start { boot with d := 0x01, f := 0x00 } [0xCB, 0x0A])) (fun t => (t.regs.f, t.regs.d, t.regs.pc, t.timer.div)) =
      some (0x10, 0x80, 0xC102, 0x0008) := by decide

theorem test_RS12_RRC_HL :
    after (step (put [(0xC000, 0x02)] (start { boot with h := 0xC0, l := 0x00, f := 0x00 } [0xCB, 0x0E]))) (fun t => (t.regs.pc, t.timer.div, busRead t 0xC000)) =
      some (0xC102, 0x0010, some 0x01) := by decide

theorem test_RS13_RL_E :
    after (step (start { boot with e := 0x80, f := 0x00 } [0xCB, 0x13])) (fun t => (t.regs.f, t.regs.e, t.regs.pc, t.timer.div)) =
      some (0x90, 0x00, 0xC102, 0x0008) := by decide

theorem test_RS15_RL_HL :
    after (step (put [(0xC000, 0x11)] (start { boot with h := 0xC0, l := 0x00, f := 0x10 } [0xCB, 0x16]))) (fun t => (t.regs.f, t.regs.pc, t.timer.div, busRead t 0xC000)) =
      some (0x00, 0xC102, 0x0010, some 0x23) := by decide

theorem test_RS16_RR_H :
    after (step (start { boot with h := 0x01, f := 0x00 } [0xCB, 0x1C])) (fun t => (t.regs.f, t.regs.h, t.regs.pc, t.timer.div)) =
      some (0x90, 0x00, 0xC102, 0x0008) := by decide

theorem test_RS17_RR_HL :
    after (step (put [(0xC000, 0x8A)] (start { boot with h := 0xC0, l := 0x00, f := 0x10 } [0xCB, 0x1E]))) (fun t => (t.regs.f, t.regs.pc, t.timer.div, busRead t 0xC000)) =
      some (0x00, 0xC102, 0x0010, some 0xC5) := by decide

theorem test_RS18_SLA_L :
    after (step (start { boot with l := 0x80, f := 0x00 } [0xCB, 0x25])) (fun t => (t.regs.f, t.regs.l, t.regs.pc, t.timer.div)) =
      some (0x90, 0x00, 0xC102, 0x0008) := by decide

theorem test_RS19_SLA_HL :
    after (step (put [(0xC000, 0xFF)] (start { boot with h := 0xC0, l := 0x00, f := 0x10 } [0xCB, 0x26]))) (fun t => (t.regs.pc, t.timer.div, busRead t 0xC000)) =
      some (0xC102, 0x0010, some 0xFE) := by decide

theorem test_RS21_SRA_B :
    after (step (start { boot with b := 0x01, f := 0x00 } [0xCB, 0x28])) (fun t => (t.regs.f, t.regs.b, t.regs.pc, t.timer.div)) =
      some (0x90, 0x00, 0xC102, 0x0008) := by decide

theorem test_RS22_SRA_HL :
    after (step (put [(0xC000, 0xFF)] (start { boot with h := 0xC0, l := 0x00, f := 0x00 } [0xCB, 0x2E]))) (fun t => (t.regs.f, t.regs.pc, t.timer.div)) =
      some (0x10, 0xC102, 0x0010) := by decide

theorem test_RS23_SWAP_A :
    after (step (start { boot with a := 0xF1, f := 0xF0 } [0xCB, 0x37])) (fun t => (t.regs.a, t.regs.f, t.regs.pc, t.timer.div)) =
      some (0x1F, 0x00, 0xC102, 0x0008) := by decide

theorem test_RS25_SWAP_HL :
    after (step (put [(0xC000, 0x5A)] (start { boot with h := 0xC0, l := 0x00, f := 0x00 } [0xCB, 0x36]))) (fun t => (t.regs.pc, t.timer.div, busRead t 0xC000)) =
      some (0xC102, 0x0010, some 0xA5) := by decide

theorem test_RS26_SRL_C :
    after (step (start { boot with c := 0x01, f := 0x00 } [0xCB, 0x39])) (fun t => (t.regs.f, t.regs.c, t.regs.pc, t.timer.div)) =
      some (0x90, 0x00, 0xC102, 0x0008) := by decide

theorem test_RS28_SRL_HL :
    after (step (put [(0xC000, 0x80)] (start { boot with h := 0xC0, l := 0x00, f := 0x00 } [0xCB, 0x3E]))) (fun t => (t.regs.pc, t.timer.div, busRead t 0xC000)) =
      some (0xC102, 0x0010, some 0x40) := by decide

theorem test_RS29_BIT_7_H :
    after (step (start { boot with h := 0x80, f := 0x10 } [0xCB, 0x7C])) (fun t => (t.regs.f, t.regs.pc, t.timer.div)) =
      some (0x30, 0xC102, 0x0008) := by decide

theorem test_RS31_BIT_6_HL :
    after (step (put [(0xC000, 0x40)] (start { boot with h := 0xC0, l := 0x00, f := 0x00 } [0xCB, 0x76]))) (fun t => (t.regs.f, t.regs.pc, t.timer.div)) =
      some (0x20, 0xC102, 0x000C) := by decide

theorem test_RS33_RES_0_A :
    after (step (start { boot with a := 0xFF, f := 0xF0 } [0xCB, 0x87])) (fun t => (t.regs.a, t.regs.pc, t.timer.div)) =
      some (0xFE, 0xC102, 0x0008) := by decide

theorem test_RS34_RES_7_HL :
    after (step (put [(0xC000, 0xFF)] (start { boot with h := 0xC0, l := 0x00 } [0xCB, 0xBE]))) (fun t => (t.regs.pc, t.timer.div, busRead t 0xC000)) =
      some (0xC102, 0x0010, some 0x7F) := by decide

theorem test_RS36_SET_1_E_CB_CB :
    after (step (start { boot with e := 0x00 } [0xCB, 0xCB])) (fun t => (t.regs.e, t.regs.pc, t.timer.div)) =
      some (0x02, 0xC102, 0x0008) := by decide

theorem test_RS37_SET_7_HL :
    after (step (put [(0xC000, 0x01)] (start { boot with h := 0xC0, l := 0x00 } [0xCB, 0xFE]))) (fun t => (t.regs.pc, t.timer.div, busRead t 0xC000)) =
      some (0xC102, 0x0010, some 0x81) := by decide

theorem test_CF1_JP_a16 :
    after (step (start boot [0xC3, 0x50, 0x01])) (fun t => (t.regs.pc, t.timer.div)) =
      some (0x0150, 0x0010) := by decide

theorem test_CF2_JP_NZ_taken :
    after (step (start { boot with f := 0x00 } [0xC2, 0x00, 0xC2])) (fun t => (t.regs.pc, t.timer.div)) =
      some (0xC200, 0x0010) := by decide

theorem test_CF3_JP_NZ_not_taken :
    after (step (start { boot with f := 0x80 } [0xC2, 0x00, 0xC2])) (fun t => (t.regs.pc, t.timer.div)) =
      some (0xC103, 0x000C) := by decide

theorem test_CF5_JP_HL :
    after (step (start { boot with h := 0xC2, l := 0x34 } [0xE9])) (fun t => (t.regs.pc, t.timer.div)) =
      some (0xC234, 0x0004) := by decide

theorem test_CF6_JR_5 :
    after (step (start boot [0x18, 0x05])) (fun t => (t.regs.pc, t.timer.div)) =
      some (0xC107, 0x000C) := by decide

theorem test_CF10_JR_Z_taken :
    after (step (start { boot with f := 0x80 } [0x28, 0x10])) (fun t => (t.regs.pc, t.timer.div)) =
      some (0xC112, 0x000C) := by decide

theorem test_CF11_JR_Z_not_taken :
    after (step (start { boot with f := 0x00 } [0x28, 0x10])) (fun t => (t.regs.pc, t.timer.div)) =
      some (0xC102, 0x0008) := by decide

theorem test_CF13_CALL_a16 :
    after (step (start boot [0xCD, 0x34, 0x12])) (fun t => ((t.regs.sp, t.regs.pc, t.timer.div), (busRead t 0xFFFC, busRead t 0xFFFD))) =
      some ((0xFFFC, 0x1234, 0x0018), (some 0x03, some 0xC1)) := by decide

theorem test_CF15_CALL_C_taken :
    after (step (start { boot with f := 0x10, sp := 0xD000 } [0xDC, 0x34, 0x12])) (fun t => ((t.regs.sp, t.regs.pc, t.timer.div), (busRead t 0xCFFE, busRead t 0xCFFF))) =
      some ((0xCFFE, 0x1234, 0x0018), (some 0x03, some 0xC1)) := by decide

theorem test_CF14_CALL_NZ_not_taken :
    after (step (start { boot with f := 0x80 } [0xC4, 0x34, 0x12])) (fun t => (t.regs.pc, t.timer.div)) =
      some (0xC103, 0x000C) := by decide

theorem test_CF16_RET :
    after (step (put [(0xC200, 0x03), (0xC201, 0xC1)] (start { boot with sp := 0xC200 } [0xC9]))) (fun t => (t.regs.sp, t.regs.pc, t.timer.div)) =
      some (0xC202, 0xC103, 0x0010) := by decide

theorem test_CF17_RET_Z_taken :
    after (step (put [(0xC200, 0x03), (0xC201, 0xC1)] (start { boot with sp := 0xC200, f := 0x80 } [0xC8]))) (fun t => (t.regs.sp, t.regs.pc, t.timer.div)) =
      some (0xC202, 0xC103, 0x0014) := by decide

theorem test_CF18_RET_Z_not_taken :
    after (step (put [(0xC200, 0x03), (0xC201, 0xC1)] (start { boot with sp := 0xC200, f := 0x00 } [0xC8]))) (fun t => (t.regs.pc, t.timer.div)) =
      some (0xC101, 0x0008) := by decide

theorem test_CF19_RETI :
    after (step (put [(0xC200, 0x51), (0xC201, 0x01)] (start { boot with sp := 0xC200 } [0xD9]))) (fun t => (t.regs.sp, t.regs.pc, t.intc.ime, t.timer.div)) =
      some (0xC202, 0x0151, true, 0x0010) := by decide

theorem test_CF21_RST_00H :
    after (step (start { boot with sp := 0xD000 } [0xC7])) (fun t => ((t.regs.sp, t.regs.pc, t.timer.div), (busRead t 0xCFFE, busRead t 0xCFFF))) =
      some ((0xCFFE, 0x0000, 0x0010), (some 0x01, some 0xC1)) := by decide

theorem test_SY1_NOP :
    after (step (start boot [0x00])) (fun t => (t.regs.pc, t.timer.div)) =
      some (0xC101, 0x0004) := by decide

theorem test_SY2_STOP :
    after (step (start boot [0x10, 0x00])) (fun t => (t.regs.pc, t.fault)) =
      some (0xC102, some (.notImplemented 0x10 0xC100)) := by decide

theorem test_SY5_HALT_IME_true_source_pending :
    after (step (ints { IntCtl.reset with ime := true, ie := 0x10, iflag := 0x10 } (start boot [0x76]))) (fun t => ((t.regs.sp, t.regs.pc, t.intc.ime), (t.intc.iflag, t.timer.div, busRead t 0xFFFC, busRead t 0xFFFD))) =
      some ((0xFFFC, 0x0060, false), (0x00, 0x0004, some 0x01, some 0xC1)) := by decide

theorem test_SY8_DI_with_source_pending :
    after (step (ints { IntCtl.reset with ime := true, ie := 0x01, iflag := 0x01 } (start boot [0xF3]))) (fun t => ((t.regs.sp, t.regs.pc, t.intc.ime), ((t.intc.pd, t.intc.iflag, t.timer.div), (busRead t 0xFFFC, busRead t 0xFFFD)))) =
      some ((0xFFFC, 0x0040, false), ((.due, 0x00, 0x0004), (some 0x01, some 0xC1))) := by decide

theorem test_SY9_EI :
    after (step (start boot [0xFB])) (fun t => (t.regs.pc, t.intc.pe, t.timer.div)) =
      some (0xC101, .due, 0x0004) := by decide

theorem test_SY15_ILLEGAL_D3 :
    after (step (start boot [0xD3])) (fun t => (t.regs.pc, t.fault)) =
      some (0xC101, some (.illegalInstruction 0xD3 0xC100)) := by decide

theorem test_SY18_NOP_IME_true_sources_1_and_3_pending :
    after (step (ints { IntCtl.reset with ime := true, ie := 0x0A, iflag := 0x0A } (start boot [0x00]))) (fun t => ((t.regs.sp, t.regs.pc, t.intc.ime), (t.intc.iflag, t.timer.div, busRead t 0xFFFC, busRead t 0xFFFD))) =
      some ((0xFFFC, 0x0048, false), (0x08, 0x0004, some 0x01, some 0xC1)) := by decide

theorem test_SY21_NOP_IME_true_dispatch_push_into_echo :
    after (step (ints { IntCtl.reset with ime := true, ie := 0x01, iflag := 0x01 } (start { boot with sp := 0xE002 } [0x00]))) (fun t => (t.regs.sp, t.regs.pc, t.timer.div, t.fault)) =
      some (0xE000, 0xC101, 0x0004, some (.busAccessError 0xE000 .write)) := by decide

theorem test_TM1_NOP_timer_edge :
    after (step (clock { Timer.reset with div := 0x000C, tac := 0x05, tima := 0x10 } (start boot [0x00]))) (fun t => (t.regs.pc, t.timer.div, t.timer.tima)) =
      some (0xC101, 0x0010, 0x11) := by decide

theorem test_TM6_CALL_24_ticks_two_edges :
    after (step (clock { Timer.reset with div := 0x0008, tac := 0x05, tima := 0x00 } (start { boot with sp := 0xD000 } [0xCD, 0x00, 0xC2]))) (fun t => ((t.regs.sp, t.regs.pc, t.timer.div), (t.timer.tima, busRead t 0xCFFE, busRead t 0xCFFF))) =
      some ((0xCFFE, 0xC200, 0x0020), (0x02, some 0x03, some 0xC1)) := by decide

theorem test_TM10_NOP_DIV_wraps :
    after (step (clock { Timer.reset with div := 0xFFFC, tac := 0x04, tima := 0x00 } (start boot [0x00]))) (fun t => (t.regs.pc, t.timer.div, t.timer.tima)) =
      some (0xC101, 0x0000, 0x01) := by decide

theorem test_TM4_NOP_overflow :
    after (step (clock { Timer.reset with div := 0x000C, tac := 0x05, tima := 0xFF, tma := 0xAB } (start boot [0x00]))) (fun t => (t.regs.pc, t.intc.iflag, t.timer.div, t.timer.tima)) =
      some (0xC101, 0x04, 0x0010, 0xAB) := by decide

theorem test_TM5_NOP_overflow_dispatched_same_Step :
    after (step (clock { Timer.reset with div := 0x000C, tac := 0x05, tima := 0xFF, tma := 0xAB } (ints { IntCtl.reset with ime := true, ie := 0x04 } (start boot [0x00])))) (fun t => ((t.regs.sp, t.regs.pc, t.intc.ime), (t.timer.div, t.timer.tima, busRead t 0xFFFC, busRead t 0xFFFD))) =
      some ((0xFFFC, 0x0050, false), (0x0010, 0xAB, some 0x01, some 0xC1)) := by decide

theorem test_BU1_fetch_from_echo :
    after (step (start { boot with pc := 0xE000 } [])) (fun t => t.fault) =
      some (some (.busAccessError 0xE000 .read)) := by decide

theorem test_BU3_operand_fetch_crosses_into_echo :
    after (step (start { boot with pc := 0xDFFF } [0x3E])) (fun t => (t.regs.pc, t.fault)) =
      some (0xE000, some (.busAccessError 0xE000 .read)) := by decide

theorem test_BU4_fetch_from_stub_FF_RST_38H :
    after (step (start { boot with sp := 0xD000, pc := 0x8000 } [])) (fun t => ((t.regs.sp, t.regs.pc, t.timer.div), (busRead t 0xCFFE, busRead t 0xCFFF))) =
      some ((0xCFFE, 0x0038, 0x0010), (some 0x01, some 0x80)) := by decide

theorem test_BU6_fetch_at_0xFFFF_reads_IE_as_opcode_PC_wraps :
    after (step (ints { IntCtl.reset with ie := 0x3C } (start { boot with pc := 0xFFFF } []))) (fun t => (t.regs.a, t.regs.f, t.regs.pc, t.timer.div)) =
      some (0x02, 0x10, 0x0000, 0x0004) := by decide

theorem test_BU11_LD_a16_SP_at_0xFFFF_wraps :
    after (step (start { boot with sp := 0x1234 } [0x08, 0xFF, 0xFF])) (fun t => (t.regs.pc, t.intc.ie, t.timer.div)) =
      some (0xC103, 0x34, 0x0014) := by decide

/-! ## Witnesses -/

/-- HL and SP in work RAM. -/
def ramRegs : Regs := { boot with h := 0xC0, l := 0x00, b := 0xC0, c := 0x80, d := 0xDF, e := 0xFF, sp := 0xD000 }

/-- A state from which every access of an instruction is to RAM. -/
def ramState : State := put [(0xC000, 0x9C), (0xD000, 0x34), (0xD001, 0xC2)] (start ramRegs [])

theorem witness_DecodeUndoesEncode : (Instr.illegal 0xFD).wellFormed = true ∧ Instr.illegal 0xFD ≠ .prefixCb := by decide

theorem witness_DecodedBytesAreTheEncoding :
    decode [0x3E, 0x12, 0xFF] = .instr (.ldRD8 .a 0x12) [0xFF] ∧ decode [0xCB] = .instr .prefixCb [] := by decide

theorem witness_IllegalOpcodesAreTheEleven :
    (0xD3 : Byte) ∈ illegalOpcodes ∧ decode [0xD3, 0x00] = .instr (.illegal 0xD3) [0x00] ∧
      Fetches (start boot [0xD3]) [0xD3] :=
  ⟨by decide, by decide, rfl, rfl, rfl, trivial⟩

theorem witness_StepRunsDecodedInstruction :
    (Instr.ldAA16 0xC234).wellFormed = true ∧
      Fetches (start boot (encode (.ldAA16 0xC234))) (encode (.ldAA16 0xC234)) ∧
      ((halt ramState).fault = none ∧ (halt ramState).halted = true) ∧
      ramState.fault = none ∧ { ramState with fault := some .invalidOperand }.fault ≠ none ∧
      ramState.requests = [] ∧ { ramState with requests := [0xFF, 0x01] }.requests = [0xFF, 0x01] :=
  ⟨rfl, ⟨rfl, rfl, rfl, rfl, rfl, trivial⟩, ⟨rfl, rfl⟩, rfl, nofun, rfl, rfl⟩

/-- R312: of a mask of all ones only bits 0, 1, 3 and 4 arrive, and the next mask waits. -/
theorem test_takeRequest_masks :
    let t := takeRequest { ints { IntCtl.reset with iflag := 0x20 } ramState with requests := [0xFF, 0x01] }
    (t.intc, t.requests) = ({ IntCtl.reset with iflag := 0x3B }, [0x01]) := by decide

/-- Taken and not taken; unconditional; both halves of the secondary table at their ends. -/
theorem witness_TickCounts :
    decode [0xC4, 0x00, 0xC2] = .instr (.callCc .nz 0xC200) [] ∧ opcodeTakes 0xC4 ramState = false ∧
    decode [0xDC, 0x00, 0xC2] = .instr (.callCc .c 0xC200) [] ∧ opcodeTakes 0xDC ramState = true ∧
    decode [0xE8, 0x01, 0x02] = .instr (.addSpR8 0x01) [0x02] ∧ (0xE8 : Byte) ≠ 0xCB ∧
    (0xC4 : Byte) ∉ illegalOpcodes ∧ (0xDC : Byte) ∉ illegalOpcodes ∧ (0xE8 : Byte) ∉ illegalOpcodes ∧
    decode [0xCB, 0x46] = .instr (.bitHl 0) [] ∧ decode [0xCB, 0x7E] = .instr (.bitHl 7) [] ∧
    decode [0xCB, 0x3E] = .instr .srlHl [] ∧ decode [0xCB, 0x86] = .instr (.resHl 0) [] := by decide

/-- No byte, one byte, two bytes fetched before the fatal address; in each of the two ranges. -/
theorem witness_FetchStopsAtFatalAddress :
    (0 < (encode .nop).length ∧ Fetches (start { boot with pc := 0xE000 } []) ((encode .nop).take 0) ∧
      IsFatal ((0xE000 : Word) + BitVec.ofNat 16 0)) ∧
    (1 < (encode (.ldRD8 .a 0x12)).length ∧
      Fetches (start { boot with pc := 0xDFFF } [0x3E]) ((encode (.ldRD8 .a 0x12)).take 1) ∧
      IsFatal ((0xDFFF : Word) + BitVec.ofNat 16 1)) ∧
    (2 < (encode (.jpA16 0xFFFF)).length ∧
      Fetches (start { boot with pc := 0xDFFE } [0xC3, 0xFF]) ((encode (.jpA16 0xFFFF)).take 2) ∧
      IsFatal ((0xDFFE : Word) + BitVec.ofNat 16 2)) ∧
    IsFatal 0xFEA0 :=
  ⟨⟨by decide, ⟨rfl, rfl, trivial⟩, by decide⟩, ⟨by decide, ⟨rfl, rfl, rfl, trivial⟩, by decide⟩,
    ⟨by decide, ⟨rfl, rfl, rfl, rfl, trivial⟩, by decide⟩, by decide⟩

theorem witness_OnlyALatchedFaultStops :
    ramState.fault = none ∧ { ramState with fault := some .invalidOperand }.fault = some Fault.invalidOperand :=
  ⟨rfl, rfl⟩

theorem witness_LaunchParametersNeverChange :
    (∃ t, step (start { boot with h := 0x20, l := 0x00 } [0x77]) = .next t) ∧ (0x7FFF : Word).toNat < 0x8000 :=
  ⟨answers_next (by decide), by decide⟩

theorem witness_StepKeepsInvariant : Inv (start boot [0xFB]) ∧ ∃ t, step (start boot [0xFB]) = .next t :=
  ⟨⟨by decide, by decide, by decide, by decide, by decide, nofun⟩, answers_next (by decide)⟩

theorem witness_ResetHasInvariant :
    Memory.wf [(0x0100, 0xC3), (0xC000, 0x01), (0xFFFE, 0x02)] = true := by decide

/-- Nothing pending, a dispatch, a dispatch whose push is refused. -/
theorem witness_HaltedStepOnlyPolls :
    after (step (halt (start boot []))) (fun t => (t.halted, t.fault, t.timer.div)) = some (true, none, 4) ∧
    after (step (halt (ints { IntCtl.reset with ime := true, ie := 0x01, iflag := 0x01 } (start boot []))))
      (fun t => (t.halted, t.fault, t.regs.pc, t.regs.sp)) = some (false, none, 0x0040, 0xFFFC) ∧
    after (step (halt (ints { IntCtl.reset with ime := true, ie := 0x01, iflag := 0x01 }
      (start { boot with sp := 0xE002 } [])))) (fun t => (t.halted, t.fault, t.regs.sp)) =
      some (true, some (.busAccessError 0xE000 .write), 0xE000) := by decide

theorem witness_QuiescentForEver :
    Quiescent (halt (start boot [])) ∧ (halt (start boot [])).fault = none ∧ (halt (start boot [])).requests = [] ∧
      (ints { IntCtl.reset with pe := .due } ramState).intc.pe = .due ∧
      (ints { IntCtl.reset with pe := .due } ramState).intc.pd = .idle ∧
      ∃ t, exec .halt (ints { IntCtl.reset with pe := .due } ramState) = .next t :=
  ⟨⟨rfl, rfl, rfl⟩, rfl, rfl, rfl, rfl, _, rfl⟩

/-- The six rows, and the four columns with an instruction that completes. -/
theorem witness_MasterEnableTable :
    (masterTable.all fun row =>
      let s := ints { IntCtl.reset with ime := row.1.1, pe := row.1.2.1, pd := row.1.2.2 } ramState
      masterState s == row.1 &&
      after (exec .nop s) (fun t => masterState (countdowns t)) == some row.2.1 &&
      after (exec .ei s) (fun t => masterState (countdowns t)) == some row.2.2.1 &&
      after (exec .di s) (fun t => masterState (countdowns t)) == some row.2.2.2.1 &&
      after (exec .reti s) (fun t => (t.fault, masterState (countdowns t))) == some (none, row.2.2.2.2)) = true := by
  decide

theorem witness_EiThenDiNeverEnables :
    Fetches (start boot [0xFB, 0xF3]) [0xFB] ∧ (start boot [0xFB, 0xF3]).intc.ime = false ∧
      (start boot [0xFB, 0xF3]).intc.pe = .idle ∧
      ∃ t, step (start boot [0xFB, 0xF3]) = .next t ∧ Fetches t [0xF3] :=
  ⟨⟨rfl, rfl, rfl, trivial⟩, rfl, rfl, _, rfl, rfl, rfl, rfl, trivial⟩

/-- The three cases of the push: SP at the ends of RAM, in the echo, across the ends of RAM and of OAM. -/
theorem witness_DispatchEntersTheVector :
    (¬ IsFatal ((0xFFFE : Word) - 2) ∧ ¬ IsFatal ((0xFFFE : Word) - 2 + 1)) ∧
    (¬ IsFatal ((0xE000 : Word) - 2) ∧ ¬ IsFatal ((0xE000 : Word) - 2 + 1)) ∧
    IsFatal ((0xE002 : Word) - 2) ∧
    (¬ IsFatal ((0xE001 : Word) - 2) ∧ IsFatal ((0xE001 : Word) - 2 + 1)) ∧
    (¬ IsFatal ((0xFEA1 : Word) - 2) ∧ IsFatal ((0xFEA1 : Word) - 2 + 1)) := by decide

/-- Each source lowest pending, with every higher one pending too; none pending (bits 5 to 7 are no source); the
countdowns leaving IME false and true. -/
theorem witness_ScanServesLowestPending :
    ((List.range 5).all fun k =>
      let c : IntCtl := { IntCtl.reset with ie := 0xFF <<< k, iflag := 0xFF <<< k }
      c.ie.getLsbD k && c.iflag.getLsbD k && (List.range k).all fun j => !(c.ie.getLsbD j && c.iflag.getLsbD j)) = true ∧
    (∀ j : Nat, j < 5 → ¬ ((0xE0 : Byte).getLsbD j = true ∧ (0xE0 : Byte).getLsbD j = true)) ∧
    (countdowns (ints { IntCtl.reset with ime := true, pd := .due } ramState)).intc.ime = false ∧
    (countdowns (ints { IntCtl.reset with pe := .due } ramState)).intc.ime = true := by decide

/-- A scan that dispatches with another source requested, its push outside IF. -/
theorem witness_ScanServesLowestPending_others_stay :
    let s := ints { IntCtl.reset with ie := 0x0A, iflag := 0x0A } ramState
    (∃ t, scan s = .next t) ∧ s.intc.ie.getLsbD IrqSource.lcdStat.bit = true ∧
      s.intc.iflag.getLsbD IrqSource.lcdStat.bit = true ∧
      (∀ j : Nat, j < IrqSource.lcdStat.bit → ¬ (s.intc.ie.getLsbD j = true ∧ s.intc.iflag.getLsbD j = true)) ∧
      s.regs.sp - 2 ≠ 0xFF0F ∧ s.regs.sp - 1 ≠ 0xFF0F :=
  ⟨answers_next (by decide), by decide, by decide, by decide, by decide, by decide⟩

/-- The four clock selects at the last tick of a period, at an overflow, inside a period, and a disabled timer. -/
theorem witness_TickCountsOnTheFallingEdge :
    ([((0x04 : Byte), (0x03FF : Word)), (0x05, 0xFFFF), (0x06, 0x003F), (0x07, 0x00FF)].all fun x =>
      x.1.getLsbD 2 && x.2.toNat % timerPeriod x.1 == timerPeriod x.1 - 1) = true ∧
    (0x10 : Byte) ≠ 0xFF ∧ (0x01 : Byte).getLsbD 2 = false ∧
    (0x0010 : Word).toNat % timerPeriod 0x05 ≠ timerPeriod 0x05 - 1 := by decide

/-- A disabled timer, and TIMA counted up to 0xFF across a wrap of DIV. -/
theorem witness_TicksCountPeriodEnds :
    (0x03 : Byte).getLsbD 2 = false ∧ (0x05 : Byte).getLsbD 2 = true ∧
      (0xFD : Byte).toNat + (((0xFFF8 : Word).toNat + 24) / timerPeriod 0x05 - (0xFFF8 : Word).toNat / timerPeriod 0x05) ≤
        0xFF := by decide

theorem witness_OverflowPeriod :
    let s := clock { Timer.reset with tac := 0x05, tima := 0xF0, tma := 0xF0, div := 0x0120 } ramState
    s.timer.tac.getLsbD 2 = true ∧ s.timer.tima = s.timer.tma ∧ s.timer.div.toNat % timerPeriod s.timer.tac = 0 ∧
      0 < (256 - s.timer.tma.toNat) * timerPeriod s.timer.tac := by decide

/-- The ends of the two ranges and their neighbours. -/
theorem witness_FatalRanges :
    IsFatal 0xE000 ∧ IsFatal 0xFDFF ∧ IsFatal 0xFEA0 ∧ IsFatal 0xFEFF ∧
    ¬ IsFatal 0xDFFF ∧ ¬ IsFatal 0xFE00 ∧ ¬ IsFatal 0xFE9F ∧ ¬ IsFatal 0xFF00 := by decide

theorem witness_DeviceRegisters :
    ([(0x8000 : Word), 0x9FFF, 0xFE00, 0xFE9F, 0xFF00, 0xFF03, 0xFF08, 0xFF0E, 0xFF10, 0xFF7F].all fun a =>
      decide (IsStub a)) = true := by decide

/-- One address of each kind a store can meet. -/
theorem witness_ByteStoreEffect :
    ([(0x7FFF : Word), 0x8000, 0xA000, 0xDFFF, 0xFF04, 0xFF05, 0xFF06, 0xFF07, 0xFF0F, 0xFF80, 0xFFFF].all fun a =>
      decide (¬ IsFatal a)) = true ∧
    IsRam 0xA000 ∧ ReadsBack 0xFFFF ∧ ¬ ReadsBack 0xFF04 ∧ ¬ ReadsBack 0x7FFF := by decide

theorem witness_WordsAreLittleEndian :
    (IsRam 0xA000 ∧ IsRam (0xA000 + 1)) ∧ (IsRam 0xDFFE ∧ IsRam (0xDFFE + 1)) ∧
    (IsRam 0xFF80 ∧ IsRam (0xFF80 + 1)) ∧ (IsRam 0xFFFD ∧ IsRam (0xFFFD + 1)) := by decide

/-- One instruction for each clause, completing. -/
theorem witness_OnlyNamedInstructionsWrite :
    (Instr.nop ≠ .prefixCb ∧ ∃ t, exec .nop ramState = .next t) ∧ movesPc .nop = false ∧ movesSp .nop = false ∧
    keepsFlags .nop = true ∧ storesBytes .nop = false :=
  ⟨⟨by decide, _, rfl⟩, by decide⟩

theorem witness_OnlyNamedInstructionsWriteControl :
    (Instr.nop ≠ .reti ∧ Instr.nop ≠ .ei ∧ Instr.nop ≠ .di ∧ Instr.nop ≠ .halt) ∧
      ∃ t, exec .nop ramState = .next t :=
  ⟨by decide, _, rfl⟩

theorem witness_MemoryLoads :
    loadForm (.ldRHl .e) ramState = some (.e, 0xC000) ∧ loadForm .ldABc ramState = some (.a, 0xC080) ∧
    loadForm .ldADe ramState = some (.a, 0xDFFF) ∧ loadForm (.ldhAA8 0xFF) ramState = some (.a, 0xFFFF) ∧
    loadForm .ldAC ramState = some (.a, 0xFF80) ∧ loadForm (.ldAA16 0x0000) ramState = some (.a, 0x0000) ∧
    ¬ IsFatal 0xC000 ∧ ¬ IsFatal 0xC080 ∧ ¬ IsFatal 0xDFFF ∧ ¬ IsFatal 0xFFFF ∧ ¬ IsFatal 0xFF80 ∧ ¬ IsFatal 0x0000 ∧
    ¬ IsFatal ramState.hl := by decide

theorem witness_ByteStores :
    storeForm (.ldHlR .d) ramState = some (0xC000, 0xDF) ∧ storeForm (.ldHlD8 0x99) ramState = some (0xC000, 0x99) ∧
    storeForm .ldBcA ramState = some (0xC080, 0x01) ∧ storeForm .ldDeA ramState = some (0xDFFF, 0x01) ∧
    storeForm (.ldhA8A 0x04) ramState = some (0xFF04, 0x01) ∧ storeForm .ldCA ramState = some (0xFF80, 0x01) ∧
    storeForm (.ldA16A 0xFFFF) ramState = some (0xFFFF, 0x01) ∧
    ¬ IsFatal 0xC000 ∧ ¬ IsFatal 0xC080 ∧ ¬ IsFatal 0xDFFF ∧ ¬ IsFatal 0xFF04 ∧ ¬ IsFatal 0xFF80 ∧ ¬ IsFatal 0xFFFF ∧
    ¬ IsFatal ramState.hl := by decide

/-- Word stores at the ends of RAM and across the wrap of the address space. -/
theorem witness_WordStores :
    (¬ IsFatal 0xDFFE ∧ ¬ IsFatal (0xDFFE + 1)) ∧ (¬ IsFatal 0xFFFF ∧ ¬ IsFatal (0xFFFF + 1)) ∧
    ¬ IsFatal (pushAddress ramState) ∧ ¬ IsFatal (pushAddress ramState + 1) := by decide

theorem witness_Pops : ¬ IsFatal ramState.regs.sp ∧ ¬ IsFatal (ramState.regs.sp + 1) := by decide

theorem witness_PopAfterPushRestores : IsRam (ramState.regs.sp - 2) ∧ IsRam (ramState.regs.sp - 2 + 1) := by decide

theorem witness_Additions :
    aluForm (.addR .b) ramState = some (.add, 0xC0) ∧ aluForm .addHl ramState = some (.add, 0x9C) ∧
    aluForm (.addD8 0x01) ramState = some (.add, 0x01) ∧ aluForm (.adcR .a) ramState = some (.adc, 0x01) ∧
    aluForm .adcHl ramState = some (.adc, 0x9C) ∧ aluForm (.adcD8 0xFF) ramState = some (.adc, 0xFF) ∧
    ramState.fC.toNat = 1 := by decide

theorem witness_Subtractions :
    aluForm (.subR .b) ramState = some (.sub, 0xC0) ∧ aluForm .subHl ramState = some (.sub, 0x9C) ∧
    aluForm (.subD8 0x01) ramState = some (.sub, 0x01) ∧ aluForm (.sbcR .a) ramState = some (.sbc, 0x01) ∧
    aluForm .sbcHl ramState = some (.sbc, 0x9C) ∧ aluForm (.sbcD8 0xFF) ramState = some (.sbc, 0xFF) ∧
    aluForm (.cpR .l) ramState = some (.cp, 0x00) ∧ aluForm .cpHl ramState = some (.cp, 0x9C) ∧
    aluForm (.cpD8 0x02) ramState = some (.cp, 0x02) ∧ ramState.fC.toNat = 1 := by decide

theorem witness_LogicOperations :
    aluForm (.andR .b) ramState = some (.and, 0xC0) ∧ aluForm .andHl ramState = some (.and, 0x9C) ∧
    aluForm (.andD8 0x01) ramState = some (.and, 0x01) ∧ aluForm (.xorR .a) ramState = some (.xor, 0x01) ∧
    aluForm .xorHl ramState = some (.xor, 0x9C) ∧ aluForm (.xorD8 0xFF) ramState = some (.xor, 0xFF) ∧
    aluForm (.orR .l) ramState = some (.or, 0x00) ∧ aluForm .orHl ramState = some (.or, 0x9C) ∧
    aluForm (.orD8 0x02) ramState = some (.or, 0x02) := by decide

theorem witness_IncrementsAndDecrements : ¬ IsFatal ramState.hl := by decide

/-- DAA with both corrections, with one, with none. -/
theorem witness_DecimalAdjust :
    (let s := start { boot with a := 0x9A, f := 0x00 } [];
      (s.fN = false ∧ s.regs.a.toNat % 16 > 9) ∧ s.fN = false ∧ s.regs.a.toNat > 0x99) ∧
    (let s := start { boot with a := 0x99, f := 0x00 } [];
      ¬ (s.fH = true ∨ (s.fN = false ∧ s.regs.a.toNat % 16 > 9)) ∧
      ¬ (s.fC = true ∨ (s.fN = false ∧ s.regs.a.toNat > 0x99))) ∧
    (let s := start { boot with a := 0x9A, f := 0x50 } [];
      ¬ (s.fH = true ∨ (s.fN = false ∧ s.regs.a.toNat % 16 > 9)) ∧ s.fC = true) ∧
    (let s := start { boot with a := 0x0A, f := 0x00 } [];
      (s.fN = false ∧ s.regs.a.toNat % 16 > 9) ∧ ¬ (s.fC = true ∨ (s.fN = false ∧ s.regs.a.toNat > 0x99))) := by decide

theorem witness_DecimalAdjustIsBcd :
    99 < 100 ∧ (start { boot with a := 0x99 } []).regs.a = bcd 99 ∧ (start { boot with a := 0x00 } []).regs.a = bcd 0 := by
  decide

theorem witness_AccumulatorRotates :
    (Instr.rra, RotOp.rr) ∈ [(Instr.rlca, RotOp.rlc), (.rrca, .rrc), (.rla, .rl), (.rra, .rr)] := by decide

theorem witness_RegisterRotates :
    rotForm (.rlcR .b) = some (.rlc, .b) ∧ rotForm (.rrcR .c) = some (.rrc, .c) ∧ rotForm (.rlR .d) = some (.rl, .d) ∧
    rotForm (.rrR .e) = some (.rr, .e) ∧ rotForm (.slaR .h) = some (.sla, .h) ∧ rotForm (.sraR .l) = some (.sra, .l) ∧
    rotForm (.swapR .a) = some (.swap, .a) ∧ rotForm (.srlR .b) = some (.srl, .b) := by decide

theorem witness_MemoryRotates :
    rotAtHlForm .rlcHl = some .rlc ∧ rotAtHlForm .rrcHl = some .rrc ∧ rotAtHlForm .rlHl = some .rl ∧
    rotAtHlForm .rrHl = some .rr ∧ rotAtHlForm .slaHl = some .sla ∧ rotAtHlForm .sraHl = some .sra ∧
    rotAtHlForm .swapHl = some .swap ∧ rotAtHlForm .srlHl = some .srl ∧ ¬ IsFatal ramState.hl := by decide

theorem witness_BitTests : ¬ IsFatal ramState.hl := by decide

theorem witness_BitWrites : ¬ IsFatal (start { boot with h := 0xFF, l := 0xFF } []).hl := by decide

/-- F is 0xB0: Z and C are set. -/
theorem witness_Jumps :
    holdsCond ramState .z ∧ holdsCond ramState .c ∧ ¬ holdsCond ramState .nz ∧ ¬ holdsCond ramState .nc :=
  ⟨rfl, rfl, nofun, nofun⟩

theorem witness_Calls :
    (¬ IsFatal (pushAddress ramState) ∧ ¬ IsFatal (pushAddress ramState + 1)) ∧
      holdsCond ramState .c ∧ ¬ holdsCond ramState .nz :=
  ⟨by decide, rfl, nofun⟩

theorem witness_Returns :
    (¬ IsFatal ramState.regs.sp ∧ ¬ IsFatal (ramState.regs.sp + 1)) ∧
      holdsCond ramState .z ∧ ¬ holdsCond ramState .nc :=
  ⟨by decide, rfl, nofun⟩

theorem witness_StopAndIllegalLatch : (0xFD : Byte) ∈ illegalOpcodes := by decide

/-- A second byte of the first and of the last block, and one at a fatal address. -/
theorem witness_PrefixRunsTheSecondary :
    (busRead (start { boot with pc := 0xC101 } [0x37]) 0xC101 = some 0x37 ∧
      decode [0xCB, 0x37] = .instr (.swapR .a) []) ∧
    (busRead (start { boot with pc := 0xFFFE } [0xFF]) 0xFFFE = some 0xFF ∧
      decode [0xCB, 0xFF] = .instr (.setR 7 .a) []) ∧
    IsFatal (start { boot with pc := 0xE000 } []).regs.pc := by decide

/-- HL, SP and an immediate address at the ends of the fatal ranges; a conditional return that is taken. -/
theorem witness_RefusedFirstAccess :
    let s := start { boot with h := 0xFE, l := 0xFF, sp := 0xE000 } [];
    (IsFatal 0xFEFF ∧ readAddress .incHl s = some 0xFEFF ∧ writeAddress .ldHliA s = some 0xFEFF) ∧
    (IsFatal 0xE000 ∧ readAddress .reti s = some 0xE000 ∧ readAddress (.retCc .z) s = some 0xE000) ∧
    (IsFatal 0xFDFF ∧ readAddress (.ldAA16 0xFDFF) s = some 0xFDFF ∧ writeAddress (.ldA16Sp 0xFDFF) s = some 0xFDFF) := by
  decide

theorem witness_RefusedStackAccess :
    (let s := start { boot with sp := 0xE002 } [];
      pushedWord (.pushRr .bc) s = some 0x0013 ∧ IsFatal (pushAddress s)) ∧
    (let s := start { boot with sp := 0xE001 } [];
      pushedWord (.callCc .z 0xC200) s = some 0xC100 ∧ ¬ IsFatal (pushAddress s) ∧ IsFatal (pushAddress s + 1)) ∧
    (¬ IsFatal 0xFE9F ∧ IsFatal (0xFE9F + 1)) ∧
    (let s := start { boot with sp := 0xDFFF } [];
      Instr.popAf ∈ [Instr.popRr .bc, .popRr .de, .popRr .hl, .popAf, .ret, .reti] ∧ ¬ IsFatal s.regs.sp ∧
        IsFatal (s.regs.sp + 1)) ∧
    (let s := start { boot with sp := 0xFE9F } [];
      s.cond .z = true ∧ ¬ IsFatal s.regs.sp ∧ IsFatal (s.regs.sp + 1)) := by decide

theorem witness_RefusedStackAccess_taken_return : holdsCond (start { boot with sp := 0xFE9F } []) .z := rfl
end

section
/-! Properties of the cells and of STUB_READ alone. Nothing but a store changes a cell and nothing changes STUB_READ, so
such a property, once every store keeps it, is kept by every access, every Operation and every Step. -/

namespace Sys2Proof.Machine

/-- A property that looks at nothing but the cells and STUB_READ, and that every store keeps. -/
structure CellInvariant (P : State → Prop) : Prop where
  frame : ∀ {s t : State}, P s → t.mem = s.mem → t.stubRead = s.stubRead → P t
  store : ∀ {s t : State} {a : Word} {v : Byte}, busWrite s a v = some t → P s → P t

theorem answers_ite {c : Prop} [Decidable c] {p q : Result} {P : State → Prop} (hp : Answers p P) (hq : Answers q P) :
    Answers (if c then p else q) P := by
  split
  · exact hp
  · exact hq

namespace CellInvariant

variable {P : State → Prop} (hP : CellInvariant P) {s : State} (h : P s)
include hP h

/-! ### The operations on the state -/

theorem next_keeps {t : State} (hm : t.mem = s.mem := by rfl) (hs : t.stubRead = s.stubRead := by rfl) :
    Answers (.next t) P := .next (hP.frame h hm hs)

theorem withRead_keeps {a : Word} {k : Byte → Result} (hk : ∀ v, Answers (k v) P) : Answers (withRead s a k) P :=
  answers_withRead (fun v _ => hk v) fun _ => hP.frame h rfl rfl

theorem withWrite_keeps {a : Word} {v : Byte} {k : State → Result} (hk : ∀ t, P t → Answers (k t) P) :
    Answers (withWrite s a v k) P :=
  answers_withWrite (fun t ht => hk t (hP.store ht h)) fun _ => hP.frame h rfl rfl

/-- A byte computed from the one read is written back; what follows changes neither a cell nor STUB_READ. -/
theorem readModifyWrite_keeps {a : Word} {f : Byte → Byte} {g : Byte → State → State}
    (hm : ∀ v t, (g v t).mem = t.mem := by intros; rfl)
    (hs : ∀ v t, (g v t).stubRead = t.stubRead := by intros; rfl) :
    Answers (withRead s a fun v => withWrite s a (f v) fun t => .next (g v t)) P :=
  hP.withRead_keeps h fun v => hP.withWrite_keeps h fun t ht => hP.next_keeps ht (hm v t) (hs v t)

theorem withWrite16_keeps {a v : Word} {k : State → Result} (hk : ∀ t, P t → Answers (k t) P) :
    Answers (withWrite16 s a v k) P :=
  hP.withWrite_keeps h fun _ hu => hP.withWrite_keeps hu hk

theorem withPush16_keeps {v : Word} {k : State → Result} (hk : ∀ t, P t → Answers (k t) P) :
    Answers (withPush16 s v k) P :=
  hP.withWrite16_keeps (s := s.setSp (pushAddress s)) (hP.frame h rfl rfl) hk

theorem withPop16_keeps {k : Word → State → Result} (hk : ∀ v t, P t → Answers (k v t) P) :
    Answers (withPop16 s k) P :=
  hP.withRead_keeps h fun _ => hP.withRead_keeps h fun _ => hk _ _ (hP.frame h rfl rfl)

theorem withFetch8_keeps {k : Byte → State → Result} (hk : ∀ v t, P t → Answers (k v t) P) :
    Answers (withFetch8 s k) P :=
  hP.withRead_keeps h fun v => hk v _ (hP.frame h rfl rfl)

theorem callTo_keeps {target : Word} : Answers (callTo target s) P :=
  hP.withPush16_keeps h fun _ ht => hP.next_keeps ht

theorem popPc_keeps : Answers (popPc s) P :=
  hP.withPop16_keeps h fun _ _ ht => hP.next_keeps ht

/-! ### The instructions -/

theorem execRot_keeps (y : Nat) (o : Operand8) : Answers (execRot y o s) P := by
  match o, y with
  | .reg _, 0 | .reg _, 1 | .reg _, 2 | .reg _, 3 | .reg _, 4 | .reg _, 5 | .reg _, 6 | .reg _, _ + 7 =>
    exact hP.next_keeps h
  | .atHl, 0 | .atHl, 1 | .atHl, 2 | .atHl, 3 | .atHl, 4 | .atHl, 5 | .atHl, 6 | .atHl, _ + 7 =>
    exact hP.readModifyWrite_keeps h

theorem execSecondary_keeps (op2 : Byte) : Answers (execSecondary op2 s) P := by
  unfold execSecondary
  split
  · exact hP.execRot_keeps h _ _
  · exact hP.next_keeps h
  · exact hP.withRead_keeps h fun _ => hP.next_keeps h
  · exact hP.next_keeps h
  · exact hP.readModifyWrite_keeps h
  · exact hP.next_keeps h
  · exact hP.readModifyWrite_keeps h

theorem exec_keeps (i : Instr) : Answers (exec i s) P := by
  cases i with
  -- registers, control state or the fault latch
  | ldRR | ldRD8 | ldRrD16 | ldSpHl | ldHlSpR8
  | addR | addD8 | adcR | adcD8 | subR | subD8 | sbcR | sbcD8
  | andR | andD8 | xorR | xorD8 | orR | orD8 | cpR | cpD8
  | incR | decR | daa | cpl | scf | ccf | incRr | decRr | addHlRr | addSpR8
  | rlca | rrca | rla | rra | rlcR | rrcR | rlR | rrR | slaR | sraR | swapR | srlR | bitR | resR | setR
  | jpA16 | jpHl | jrR8 | nop | stop | halt | di | ei | illegal => exact hP.next_keeps h
  | jpCc | jrCc => exact answers_ite (hP.next_keeps h) (hP.next_keeps h)
  -- one byte read
  | ldRHl | ldABc | ldADe | ldAHli | ldAHld | ldhAA8 | ldAC | ldAA16
  | addHl | adcHl | subHl | sbcHl | andHl | xorHl | orHl | cpHl | bitHl =>
    exact hP.withRead_keeps h fun _ => hP.next_keeps h
  -- one byte stored
  | ldHlR | ldHlD8 | ldBcA | ldDeA | ldHliA | ldHldA | ldhA8A | ldCA | ldA16A =>
    exact hP.withWrite_keeps h fun _ ht => hP.next_keeps ht
  | incHl | decHl | rlcHl | rrcHl | rlHl | rrHl | slaHl | sraHl | swapHl | srlHl | resHl | setHl =>
    exact hP.readModifyWrite_keeps h
  -- one word stored or popped
  | ldA16Sp => exact hP.withWrite16_keeps h fun _ ht => hP.next_keeps ht
  | pushRr => exact hP.withPush16_keeps h fun _ ht => hP.next_keeps ht
  | popRr p => exact hP.withPop16_keeps (k := fun v t => .next (t.setPop p v)) h fun _ _ ht => hP.next_keeps ht
  | popAf => exact hP.withPop16_keeps (k := fun v t => .next (t.setAf v)) h fun _ _ ht => hP.next_keeps ht
  | reti => exact hP.withPop16_keeps (k := fun v t => .next (returnFromInterrupt t v)) h fun _ _ ht => hP.next_keeps ht
  | callA16 | rst => exact hP.callTo_keeps h
  | callCc => exact answers_ite (hP.callTo_keeps h) (hP.next_keeps h)
  | ret => exact hP.popPc_keeps h
  | retCc => exact answers_ite (hP.popPc_keeps h) (hP.next_keeps h)
  | prefixCb => exact hP.withFetch8_keeps h fun op2 _ ht => hP.execSecondary_keeps ht op2

/-! ### The rest of a Step -/

theorem withInstr_keeps {k : Instr → State → Result} (hk : ∀ i t, P t → Answers (k i t) P) :
    Answers (withInstr s k) P := by
  refine hP.withFetch8_keeps h fun op t ht => ?_
  split
  · exact hk _ t ht
  · exact hP.withFetch8_keeps ht fun n u hu => hk _ u hu
  · exact hP.withFetch8_keeps ht fun lo u hu => hP.withFetch8_keeps hu fun hi w hw => hk _ w hw
  · exact hP.withFetch8_keeps ht fun op2 u hu => hk _ u hu
  · exact hP.next_keeps ht

theorem tickN_keeps (n : Nat) : P (tickN n s) := by
  obtain ⟨-, hmem, -, -, hstub, -⟩ := tickN_frame n s
  exact hP.frame h hmem hstub

theorem takeRequest_keeps : P (takeRequest s) := by
  obtain ⟨-, hmem, -, -, hstub, -⟩ := takeRequest_frame s
  exact hP.frame h hmem hstub

theorem countdowns_keeps : P (countdowns s) := by
  obtain ⟨-, hmem, -, -, hstub, -⟩ := countdowns_frame s
  exact hP.frame h hmem hstub

theorem dispatch_keeps (i : IrqSource) : Answers (dispatch i s) P :=
  hP.withPush16_keeps h fun _ ht => hP.next_keeps ht

theorem interruptPhase_keeps : Answers (interruptPhase s) P :=
  have hc := hP.countdowns_keeps h
  answers_interruptPhase (fun _ => hc) fun i _ _ => hP.dispatch_keeps hc i

omit h in
theorem finishStep_keeps (n : Nat) {r : Result} (hr : Answers r P) : Answers (finishStep n r) P :=
  answers_finishStep (hr.mono fun _ ht => ⟨fun _ => ht, fun _ => hP.interruptPhase_keeps (hP.tickN_keeps ht n)⟩)

/-- Every Step keeps a property of the cells and STUB_READ that every store keeps. -/
theorem step_keeps {t : State} (e : step s = .next t) : P t := by
  have hr := hP.takeRequest_keeps h
  unfold step at e
  split at e
  · cases e
  · refine Answers.of_eq (answers_ite ?halted ?fetching) e
    case halted => exact hP.interruptPhase_keeps (hP.tickN_keeps hr haltTicks)
    case fetching => exact hP.withInstr_keeps hr fun i u hu => hP.finishStep_keeps _ (hP.exec_keeps hu i)

end CellInvariant

/-! ### The launch parameters (R4) -/

/-- STUB_READ and the byte at every ROM address are those of `s`. -/
def SameLaunch (s t : State) : Prop :=
  t.stubRead = s.stubRead ∧ ∀ a : Word, a.toNat < 0x8000 → busRead t a = busRead s a

theorem SameLaunch.refl (s : State) : SameLaunch s s := ⟨rfl, fun _ _ => rfl⟩

/-- A ROM address reads its cell (R53). -/
theorem busRead_rom (s : State) {a : Word} (h : a.toNat < 0x8000) : busRead s a = some (s.mem.read a.toNat) := by
  simp [busRead, regionOf, h]

theorem sameLaunch_cellInvariant (s : State) : CellInvariant (SameLaunch s) where
  frame := fun ⟨hstub, hrom⟩ hm hs =>
    ⟨hs.trans hstub, fun a ha => by rw [← hrom a ha, busRead_rom _ ha, busRead_rom _ ha, hm]⟩
  store hw := fun ⟨hstub, hrom⟩ => by
    obtain ⟨-, -, -, -, -, -, hs, -⟩ := busWrite_frame hw
    exact ⟨hs.trans hstub, fun a ha => (busWrite_rom hw ha).trans (hrom a ha)⟩

/-- Settles O9: the launch parameters are a property of the cells and STUB_READ, and a store at a ROM address is
ignored (R53), so every Step keeps them. -/
theorem launchParametersNeverChange : Obligations.LaunchParametersNeverChange := by
  unfold Obligations.LaunchParametersNeverChange
  intro s t e
  exact (sameLaunch_cellInvariant s).step_keeps (SameLaunch.refl s) e

end Sys2Proof.Machine
end

section
/-! What the opcode tables answer (`30_encoding.md` R92, R100 to R103): an entry for every byte, and instructions that
are well formed. -/

namespace Sys2Proof

/-- An instruction a fetch goes on with: well formed, and not the lone byte 0xCB, whose entry is the escape. -/
def Fetchable (i : Instr) : Prop := i.wellFormed = true ∧ i ≠ .prefixCb

theorem secondaryTable_ne (op2 : Byte) :
    secondaryTable op2 ≠ .reti ∧ secondaryTable op2 ≠ .ei ∧ secondaryTable op2 ≠ .di ∧ secondaryTable op2 ≠ .halt ∧
    secondaryTable op2 ≠ .prefixCb := by
  revert op2; decide

theorem secondaryTable_fetchable (op2 : Byte) : Fetchable (secondaryTable op2) := by
  have hwf : ∀ b, (secondaryTable b).wellFormed = true := by decide
  obtain ⟨-, -, -, -, hne⟩ := secondaryTable_ne op2
  exact ⟨hwf op2, hne⟩

/-- There is an entry, and one without operand bytes is an instruction a fetch goes on with. -/
def Entry.wellFormed (e : Entry) : Bool :=
  match e with
  | .op0 i => i.wellFormed && decide (i ≠ .prefixCb)
  | .op8 _ | .op16 _ | .escape => true
  | .unknown => false

theorem primaryTable_wellFormed : ∀ op, (primaryTable op).wellFormed = true := by decide

/-- Whatever its operand bytes, the entry is an instruction a fetch goes on with. -/
def Entry.OperandsFetchable (e : Entry) : Prop :=
  match e with
  | .op8 k => ∀ n, Fetchable (k n)
  | .op16 k => ∀ nn, Fetchable (k nn)
  | .op0 _ | .escape | .unknown => True

theorem aluImmediate_fetchable (y : Nat) (n : Byte) : Fetchable (aluImmediate y n) := by
  unfold aluImmediate
  split <;> exact ⟨rfl, nofun⟩

theorem primaryBlock0_operandsFetchable (y z p q : Nat) : (primaryBlock0 y z p q).OperandsFetchable := by
  unfold primaryBlock0
  repeat' split
  all_goals simp [Entry.OperandsFetchable, Fetchable, Instr.wellFormed]

theorem primaryBlock3_operandsFetchable (op : Byte) (y z p q : Nat) : (primaryBlock3 op y z p q).OperandsFetchable := by
  unfold primaryBlock3
  split
  case h_7 => exact aluImmediate_fetchable y
  all_goals repeat' split
  all_goals simp [Entry.OperandsFetchable, Fetchable, Instr.wellFormed]

theorem primaryTable_operandsFetchable (op : Byte) : (primaryTable op).OperandsFetchable := by
  unfold primaryTable
  split
  · exact primaryBlock0_operandsFetchable _ _ _ _
  · unfold primaryBlock1
    split <;> trivial
  · trivial
  · exact primaryBlock3_operandsFetchable _ _ _ _ _
  · trivial

end Sys2Proof
end

section
/-! What one instruction can do, said once. Each operation an instruction is made of keeps what the instruction is not
named to write (`InstrFrame`), and an instruction ends in one of six ways (`Ends`). -/

namespace Sys2Proof.Machine

/-! ### The escape byte and the secondary table (R101, R295) -/

theorem execRot_eq (y : Nat) (o : Operand8) (s : State) : execRot y o s = exec (rotInstr y o) s := by
  match o, y with
  | .reg _, 0 | .reg _, 1 | .reg _, 2 | .reg _, 3 | .reg _, 4 | .reg _, 5 | .reg _, 6 | .reg _, _ + 7 => rfl
  | .atHl, 0 | .atHl, 1 | .atHl, 2 | .atHl, 3 | .atHl, 4 | .atHl, 5 | .atHl, 6 | .atHl, _ + 7 => rfl

/-- The Operation of a second byte is the meaning of the instruction the secondary table has for it. -/
theorem execSecondary_eq (op2 : Byte) (s : State) : execSecondary op2 s = exec (secondaryTable op2) s := by
  unfold execSecondary secondaryTable
  generalize fieldX op2 = x, operand8 (fieldZ op2) = o
  match x, o with
  | 0, o => exact execRot_eq _ o s
  | 1, .reg _ | 2, .reg _ | _ + 3, .reg _ => rfl
  | 1, .atHl | 2, .atHl | _ + 3, .atHl => rfl

/-! ### The frame of an instruction -/

/-- A refused read is at a fatal address (R58, R59, R304). -/
theorem isFatal_of_busRead_none {s : State} {a : Word} (h : busRead s a = none) : IsFatal a := by
  have hr := regionOf_range a
  unfold busRead at h
  cases hc : regionOf a <;> simp only [hc, reduceCtorEq] at h hr
  case echo => exact .inl ⟨hr.1, by omega⟩
  case unusable => exact .inr ⟨hr.1, by omega⟩

theorem isFatal_of_busWrite_none {s : State} {a : Word} {v : Byte} (h : busWrite s a v = none) : IsFatal a :=
  isFatal_of_busRead_none ((busWrite_none_iff_busRead v).mp h)

theorem busWrite_div {s t : State} {a : Word} {v : Byte} (h : busWrite s a v = some t) :
    t.timer.div = s.timer.div ∨ t.timer.div = 0 := by
  unfold busWrite ioWrite at h
  cases hr : regionOf a <;> simp only [hr, reduceCtorEq, Option.some.injEq] at h
  case io => cases hi : ioRegOf a <;> simp only [hi] at h <;> subst h <;> simp
  all_goals subst h; exact .inl rfl

/-- What the instruction `i` keeps between `s` and `t` as long as it has neither latched a fault nor written the
control state: PC, SP, F and the bytes unless it is named to write them (R14, R15, R16, R68), F[3:0] where it is zero
(R12), DIV unless it is cleared (R333). -/
structure InstrFrame (i : Instr) (s t : State) : Prop where
  pc : movesPc i = false → t.regs.pc = s.regs.pc
  sp : movesSp i = false → t.regs.sp = s.regs.sp
  f : keepsFlags i = true → t.regs.f = s.regs.f
  low : s.regs.f.extractLsb' 0 4 = 0#4 → t.regs.f.extractLsb' 0 4 = 0#4
  bytes : storesBytes i = false → (∀ a, busRead t a = busRead s a) ∧ t.timer = s.timer
  div : t.timer.div = s.timer.div ∨ t.timer.div = 0
  control : SameControl s t

/-- The ways an instruction ends: within its frame; there with a fault latched, which is sound if the instruction is
well formed; or with the one control write it is named for (R280, R292 to R294). -/
inductive Ends (i : Instr) (s : State) : State → Prop
  | done {t : State} : InstrFrame i s t → Ends i s t
  | latched {t : State} {f : Fault} :
    InstrFrame i s t → (i.wellFormed = true → FaultSound t f) → Ends i s { t with fault := some f }
  | halted : i = .halt → Ends i s { s with halted := true }
  | enabling : i = .ei → Ends i s { s with intc := { s.intc with pe := armIfIdle s.intc.pe, pd := .idle } }
  | disabling : i = .di → Ends i s { s with intc := { s.intc with pd := armIfIdle s.intc.pd, pe := .idle } }
  | returned {t : State} (v : Word) : i = .reti → InstrFrame i s t → Ends i s (returnFromInterrupt t v)

namespace InstrFrame

variable {i : Instr} {s t : State}

theorem refl (i : Instr) (s : State) : InstrFrame i s s where
  pc _ := rfl
  sp _ := rfl
  f _ := rfl
  low := id
  bytes _ := ⟨fun _ => rfl, rfl⟩
  div := .inl rfl
  control := ⟨rfl, rfl, rfl, rfl, rfl, rfl, rfl⟩

variable (h : InstrFrame i s t)
include h

/-! ### One rule per write of a register -/

theorem setRegs {g : Regs} (hpc : movesPc i = false → g.pc = t.regs.pc := by exact fun _ => rfl)
    (hsp : movesSp i = false → g.sp = t.regs.sp := by exact fun _ => rfl)
    (hf : keepsFlags i = true → g.f = t.regs.f := by exact fun _ => rfl)
    (hlow : t.regs.f.extractLsb' 0 4 = 0#4 → g.f.extractLsb' 0 4 = 0#4 := by exact id) :
    InstrFrame i s { t with regs := g } where
  pc hk := (hpc hk).trans (h.pc hk)
  sp hk := (hsp hk).trans (h.sp hk)
  f hk := (hf hk).trans (h.f hk)
  low hl := hlow (h.low hl)
  bytes := h.bytes
  div := h.div
  control := { h.control with }

theorem setReg (r : Reg8) (v : Byte) : InstrFrame i s (t.setReg r v) :=
  h.setRegs (fun _ => t.setReg_pc r v) (fun _ => t.setReg_sp r v) (fun _ => t.setReg_f r v)
    fun hl => (congrArg _ (t.setReg_f r v)).trans hl

theorem setA (v : Byte) : InstrFrame i s (t.setA v) := h.setRegs

theorem setHl (v : Word) : InstrFrame i s (t.setHl v) := h.setRegs

theorem setFlags (hi : keepsFlags i = false) (z n hc c : Bool) : InstrFrame i s (t.setFlags z n hc c) :=
  h.setRegs (hf := fun hk => by simp [hi] at hk) (hlow := (packFlags_low _ _ _ _ _).trans)

theorem setAf (hi : keepsFlags i = false) (v : Word) : InstrFrame i s (t.setAf v) :=
  h.setRegs (hf := fun hk => by simp [hi] at hk) (hlow := fun _ => setAf_low v)

theorem setSp (hi : movesSp i = true) (v : Word) : InstrFrame i s (t.setSp v) :=
  h.setRegs (hsp := fun hk => by simp [hi] at hk)

theorem setPc (hi : movesPc i = true) (v : Word) : InstrFrame i s (t.setPc v) :=
  h.setRegs (hpc := fun hk => by simp [hi] at hk)

theorem setReg16 (p : Reg16) (hi : p = .sp → movesSp i = true) (v : Word) : InstrFrame i s (t.setReg16 p v) := by
  cases p with
  | sp => exact h.setSp (hi rfl) v
  | bc | de | hl => exact h.setRegs

theorem setPop (p : PopPair) (v : Word) : InstrFrame i s (t.setPop p v) := by
  cases p <;> exact h.setRegs

/-! ### One rule per access -/

theorem store (hi : storesBytes i = true) {u : State} {a : Word} {v : Byte} (hw : busWrite t a v = some u) :
    InstrFrame i s u := by
  obtain ⟨hregs, hime, hpe, hpd, hhalted, hfault, hstub, hreq⟩ := busWrite_frame hw
  have hc := h.control
  refine ⟨hregs ▸ h.pc, hregs ▸ h.sp, hregs ▸ h.f, hregs ▸ h.low, fun hk => by simp [hi] at hk, ?_, ?_⟩
  · rcases busWrite_div hw with hd | hd
    · exact hd ▸ h.div
    · exact .inr hd
  · exact ⟨hime.trans hc.ime, hpe.trans hc.pe, hpd.trans hc.pd, hhalted.trans hc.halted, hfault.trans hc.fault,
      hstub.trans hc.stubRead, hreq.trans hc.requests⟩

theorem next : Answers (.next t) (Ends i s) := .next (.done h)

theorem refused {a : Word} (ha : IsFatal a) (k : AccessKind) :
    Ends i s { t with fault := some (.busAccessError a k) } := .latched h fun _ => ha

theorem withRead_ends {a : Word} {k : Byte → Result} (hk : ∀ v, Answers (k v) (Ends i s)) :
    Answers (withRead t a k) (Ends i s) :=
  answers_withRead (fun v _ => hk v) fun hn => h.refused (isFatal_of_busRead_none hn) .read

theorem withWrite_ends (hi : storesBytes i = true) {a : Word} {v : Byte} {k : State → Result}
    (hk : ∀ u, InstrFrame i s u → Answers (k u) (Ends i s)) : Answers (withWrite t a v k) (Ends i s) :=
  answers_withWrite (fun u hu => hk u (h.store hi hu)) fun hn => h.refused (isFatal_of_busWrite_none hn) .write

/-- A byte computed from the one read is written back. -/
theorem readModifyWrite_ends (hi : storesBytes i = true) {a : Word} {f : Byte → Byte} {k : Byte → State → Result}
    (hk : ∀ v u, InstrFrame i s u → Answers (k v u) (Ends i s)) :
    Answers (withRead t a fun v => withWrite t a (f v) (k v)) (Ends i s) :=
  h.withRead_ends fun v => h.withWrite_ends hi (hk v)

theorem withWrite16_ends (hi : storesBytes i = true) {a v : Word} {k : State → Result}
    (hk : ∀ u, InstrFrame i s u → Answers (k u) (Ends i s)) : Answers (withWrite16 t a v k) (Ends i s) :=
  h.withWrite_ends hi fun _ hu => hu.withWrite_ends hi hk

theorem withPush16_ends (hi : storesBytes i = true) (hsp : movesSp i = true) {v : Word} {k : State → Result}
    (hk : ∀ u, InstrFrame i s u → Answers (k u) (Ends i s)) : Answers (withPush16 t v k) (Ends i s) :=
  (h.setSp hsp _).withWrite16_ends hi hk

theorem withPop16_ends (hsp : movesSp i = true) {k : Word → State → Result}
    (hk : ∀ v u, InstrFrame i s u → Answers (k v u) (Ends i s)) : Answers (withPop16 t k) (Ends i s) :=
  h.withRead_ends fun _ => h.withRead_ends fun _ => hk _ _ (h.setSp hsp _)

theorem callTo_ends (hi : storesBytes i = true) (hsp : movesSp i = true) (hpc : movesPc i = true) {target : Word} :
    Answers (callTo target t) (Ends i s) :=
  h.withPush16_ends hi hsp fun _ hu => (hu.setPc hpc _).next

theorem popPc_ends (hsp : movesSp i = true) (hpc : movesPc i = true) : Answers (popPc t) (Ends i s) :=
  h.withPop16_ends hsp fun _ _ hu => (hu.setPc hpc _).next

end InstrFrame

/-- Every instruction but the byte 0xCB, which stands for the one it selects, ends in one of the ways of `Ends`. -/
theorem exec_ends {i : Instr} (hi : i ≠ .prefixCb) (s : State) : Answers (exec i s) (Ends i s) := by
  have h := InstrFrame.refl i s
  cases i with
  -- 8-bit registers and pairs
  | ldRR | ldRD8 | resR | setR => exact (h.setReg _ _).next
  | ldRrD16 p | incRr p | decRr p => exact (h.setReg16 p (by rintro rfl; rfl) _).next
  | ldSpHl => exact (h.setSp rfl _).next
  -- with flags
  | addR | addD8 | adcR | adcD8 | subR | subD8 | sbcR | sbcD8 | andR | andD8 | xorR | xorD8 | orR | orD8 | cpR | cpD8
  | daa | cpl | rlca | rrca | rla | rra => exact ((h.setA _).setFlags rfl _ _ _ _).next
  | incR | decR | rlcR | rrcR | rlR | rrR | slaR | sraR | swapR | srlR =>
    exact ((h.setReg _ _).setFlags rfl _ _ _ _).next
  | scf | ccf | bitR => exact (h.setFlags rfl _ _ _ _).next
  | addHlRr | ldHlSpR8 => exact ((h.setHl _).setFlags rfl _ _ _ _).next
  | addSpR8 => exact ((h.setSp rfl _).setFlags rfl _ _ _ _).next
  -- one byte read
  | ldRHl => exact h.withRead_ends fun _ => (h.setReg _ _).next
  | ldABc | ldADe | ldhAA8 | ldAC | ldAA16 => exact h.withRead_ends fun _ => (h.setA _).next
  | ldAHli | ldAHld => exact h.withRead_ends fun _ => ((h.setA _).setHl _).next
  | addHl | adcHl | subHl | sbcHl | andHl | xorHl | orHl | cpHl =>
    exact h.withRead_ends fun _ => ((h.setA _).setFlags rfl _ _ _ _).next
  | bitHl => exact h.withRead_ends fun _ => (h.setFlags rfl _ _ _ _).next
  -- one byte stored
  | ldHlR | ldHlD8 | ldBcA | ldDeA | ldhA8A | ldCA | ldA16A => exact h.withWrite_ends rfl fun _ hu => hu.next
  | ldHliA | ldHldA => exact h.withWrite_ends rfl fun _ hu => (hu.setHl _).next
  | resHl | setHl => exact h.readModifyWrite_ends rfl fun _ _ hu => hu.next
  | incHl | decHl | rlcHl | rrcHl | rlHl | rrHl | slaHl | sraHl | swapHl | srlHl =>
    exact h.readModifyWrite_ends rfl fun _ _ hu => (hu.setFlags rfl _ _ _ _).next
  -- one word stored or popped
  | ldA16Sp => exact h.withWrite16_ends rfl fun _ hu => hu.next
  | pushRr => exact h.withPush16_ends rfl rfl fun _ hu => hu.next
  | popRr p => exact h.withPop16_ends (k := fun v t => .next (t.setPop p v)) rfl fun _ _ hu => (hu.setPop p _).next
  | popAf => exact h.withPop16_ends (k := fun v t => .next (t.setAf v)) rfl fun _ _ hu => (hu.setAf rfl _).next
  -- control flow
  | jpA16 | jpHl | jrR8 => exact (h.setPc rfl _).next
  | jpCc | jrCc => exact answers_ite (h.setPc rfl _).next h.next
  | callA16 | rst => exact h.callTo_ends rfl rfl rfl
  | callCc => exact answers_ite (h.callTo_ends rfl rfl rfl) h.next
  | ret => exact h.popPc_ends rfl rfl
  | retCc => exact answers_ite (h.popPc_ends rfl rfl) h.next
  | reti =>
    exact h.withPop16_ends (k := fun v t => .next (returnFromInterrupt t v)) rfl fun v _ hu =>
      .next (.returned v rfl hu)
  -- system
  | nop => exact h.next
  | halt => exact .next (.halted rfl)
  | ei => exact .next (.enabling rfl)
  | di => exact .next (.disabling rfl)
  | stop => exact answers_raise (.latched h fun _ => ⟨rfl, (sub_add_cancel _ _).symm⟩)
  | illegal => exact answers_raise (.latched h fun hwf => ⟨of_decide_eq_true hwf, (sub_add_cancel _ _).symm⟩)
  | prefixCb => exact absurd rfl hi

end Sys2Proof.Machine
end

section
/-! The frames of the state chapter (`10_state.md`), read off the ways an instruction ends. -/

namespace Sys2Proof.Machine

section

variable {i : Instr} {s t : State}

/-- The control state and DIV, STUB_READ and the host's requests, as `Obligations.OnlyNamedInstructionsWriteControl`
has them. -/
def ControlFrame (i : Instr) (s t : State) : Prop :=
  (i ≠ .reti → t.intc.ime = s.intc.ime) ∧
  (i ≠ .ei → i ≠ .di → i ≠ .reti → t.intc.pe = s.intc.pe ∧ t.intc.pd = s.intc.pd) ∧
  (i ≠ .halt → t.halted = s.halted) ∧
  (t.timer.div = s.timer.div ∨ t.timer.div = 0) ∧
  t.stubRead = s.stubRead ∧ t.requests = s.requests

theorem InstrFrame.controlFrame (h : InstrFrame i s t) : ControlFrame i s t :=
  have hc := h.control
  ⟨fun _ => hc.ime, fun _ _ _ => ⟨hc.pe, hc.pd⟩, fun _ => hc.halted, h.div, hc.stubRead, hc.requests⟩

theorem Ends.controlFrame (h : Ends i s t) : ControlFrame i s t := by
  cases h with
  | done h | latched h => exact h.controlFrame
  | halted hi => exact ⟨fun _ => rfl, fun _ _ _ => ⟨rfl, rfl⟩, absurd hi, .inl rfl, rfl, rfl⟩
  | enabling hi => exact ⟨fun _ => rfl, absurd hi, fun _ => rfl, .inl rfl, rfl, rfl⟩
  | disabling hi => exact ⟨fun _ => rfl, fun _ => absurd hi, fun _ => rfl, .inl rfl, rfl, rfl⟩
  | returned v hi h =>
    exact ⟨absurd hi, fun _ _ => absurd hi, fun _ => h.control.halted, h.div, h.control.stubRead, h.control.requests⟩

/-- An instruction of the secondary table keeps the whole control state, and so does the byte 0xCB that fetched it. -/
theorem ControlFrame.prefixCb {op2 : Byte} {v : Word} (h : ControlFrame (secondaryTable op2) (s.setPc v) t) :
    ControlFrame .prefixCb s t := by
  obtain ⟨hreti, hei, hdi, hhalt, -⟩ := secondaryTable_ne op2
  obtain ⟨hime, hcount, hhalted, hdiv, hstub, hreq⟩ := h
  exact ⟨fun _ => hime hreti, fun _ _ _ => hcount hei hdi hreti, fun _ => hhalted hhalt, hdiv, hstub, hreq⟩

end

theorem execPrefixCb_controlFrame (s : State) : Answers (execPrefixCb s) (ControlFrame .prefixCb s) := by
  refine answers_withFetch8 (fun op2 _ => ?_) fun _ =>
    ((InstrFrame.refl .prefixCb s).controlFrame : ControlFrame .prefixCb s s)
  obtain ⟨-, -, -, -, hne⟩ := secondaryTable_ne op2
  rw [execSecondary_eq]
  exact (exec_ends hne _).mono fun _ ht => ht.controlFrame.prefixCb

theorem exec_controlFrame (i : Instr) (s : State) : Answers (exec i s) (ControlFrame i s) := by
  by_cases hi : i = .prefixCb
  · subst hi; exact execPrefixCb_controlFrame s
  · exact (exec_ends hi s).mono fun _ => Ends.controlFrame

/-- Settles O28: each control write is one way of ending, named for its instruction. -/
theorem onlyNamedInstructionsWriteControl : Obligations.OnlyNamedInstructionsWriteControl := by
  unfold Obligations.OnlyNamedInstructionsWriteControl
  intro i s t e
  exact (exec_controlFrame i s).of_eq e

/-- Settles O27: an instruction ends within its frame, and neither a latched fault nor the control write it is named
for changes F, SP or a byte. -/
theorem onlyNamedInstructionsWrite : Obligations.OnlyNamedInstructionsWrite := by
  unfold Obligations.OnlyNamedInstructionsWrite
  intro i s t hi e
  have he := (exec_ends hi s).of_eq e
  cases he with
  | done h | latched h => exact ⟨h.pc, h.sp, h.f, h.bytes⟩
  | halted | enabling | disabling =>
    exact ⟨fun _ => rfl, fun _ => rfl, fun _ => rfl, fun _ => ⟨fun _ => rfl, rfl⟩⟩
  | returned v hreti h =>
    subst hreti
    exact ⟨nofun, nofun, h.f, h.bytes⟩

end Sys2Proof.Machine
end

section
/-! The invariant of Step boundaries, followed through a Step: the fetch, the Operation, the ticks and the interrupt
phase. -/

namespace Sys2Proof.Machine

/-! ### The fetch (R93 to R96): only PC moves -/

theorem answers_withInstr {s : State} {k : Instr → State → Result} {P : State → Prop}
    (hk : ∀ i pc, Fetchable i → Answers (k i (s.setPc pc)) P)
    (hr : ∀ pc a, IsFatal a → P { s.setPc pc with fault := some (.busAccessError a .read) }) :
    Answers (withInstr s k) P := by
  have fetch : ∀ pc (k' : Byte → State → Result), (∀ v pc', Answers (k' v (s.setPc pc')) P) →
      Answers (withFetch8 (s.setPc pc) k') P := fun pc k' hk' =>
    answers_withFetch8 (fun v _ => hk' v _) fun hn => hr pc _ (isFatal_of_busRead_none hn)
  refine fetch s.regs.pc _ fun op pc1 => ?_
  have hwf := primaryTable_wellFormed op
  have hop := primaryTable_operandsFetchable op
  cases he : primaryTable op with
  | op0 i =>
    simp only [he, Entry.wellFormed, Bool.and_eq_true, decide_eq_true_eq] at hwf
    exact hk i pc1 hwf
  | op8 f =>
    simp only [he, Entry.OperandsFetchable] at hop
    exact fetch pc1 _ fun n pc2 => hk _ pc2 (hop n)
  | op16 f =>
    simp only [he, Entry.OperandsFetchable] at hop
    exact fetch pc1 _ fun lo pc2 => fetch pc2 _ fun hi pc3 => hk _ pc3 (hop _)
  | escape => exact fetch pc1 _ fun op2 pc2 => hk _ pc2 (secondaryTable_fetchable op2)
  | unknown => simp [he, Entry.wellFormed] at hwf

/-! ### The invariant at a boundary and within a Step -/

/-- F and the countdowns after an Operation, which may have armed one of them (R12, R18). -/
structure AfterExec (s : State) : Prop where
  flags : s.regs.f.extractLsb' 0 4 = 0#4
  exclusive : s.intc.pe = .idle ∨ s.intc.pd = .idle

/-- F and the countdowns at a Step boundary (R12, R314). -/
structure AtRest (s : State) : Prop extends AfterExec s where
  enable : s.intc.pe ≠ .armed
  disable : s.intc.pd ≠ .armed

/-- The invariant of Step boundaries but for the cells, which `CellInvariant` carries through a Step. -/
structure Boundary (s : State) : Prop extends AtRest s where
  latch : ∀ f, s.fault = some f → FaultSound s f

theorem AtRest.congr {s t : State} (h : AtRest s) (hf : t.regs.f = s.regs.f) (hpe : t.intc.pe = s.intc.pe)
    (hpd : t.intc.pd = s.intc.pd) : AtRest t :=
  ⟨⟨hf ▸ h.flags, hpe ▸ hpd ▸ h.exclusive⟩, hpe ▸ h.enable, hpd ▸ h.disable⟩

theorem AtRest.store {s t : State} {a : Word} {v : Byte} (hw : busWrite s a v = some t) (h : AtRest s) : AtRest t := by
  obtain ⟨hregs, -, hpe, hpd, -⟩ := busWrite_frame hw
  exact h.congr (by rw [hregs]) hpe hpd

theorem AtRest.safe {s : State} (h : AtRest s) (hs : s.fault = none) : Boundary s :=
  ⟨h, fun f hf => by simp [hs] at hf⟩

theorem AtRest.latch {s : State} {f : Fault} (h : AtRest s) (hf : FaultSound s f) :
    Boundary { s with fault := some f } :=
  ⟨h.congr rfl rfl rfl, by rintro _ ⟨⟩; exact hf⟩

/-! ### The interrupt phase -/

/-- What `Countdowns()` makes of one countdown (R314). -/
def Countdown.next (c : Countdown) : Countdown :=
  match c with
  | .idle => .idle
  | .due => .idle
  | .armed => .due

theorem Countdown.next_ne_armed (c : Countdown) : c.next ≠ .armed := by cases c <;> nofun

theorem countEnable_counts (c : IntCtl) : (countEnable c).pe = c.pe.next ∧ (countEnable c).pd = c.pd := by
  unfold countEnable
  cases h : c.pe <;> simp [h, Countdown.next]

theorem countDisable_counts (c : IntCtl) : (countDisable c).pe = c.pe ∧ (countDisable c).pd = c.pd.next := by
  unfold countDisable
  cases h : c.pd <;> simp [h, Countdown.next]

theorem countdowns_counts (s : State) :
    (countdowns s).intc.pe = s.intc.pe.next ∧ (countdowns s).intc.pd = s.intc.pd.next := by
  obtain ⟨hpe, hpd⟩ := countDisable_counts (countEnable s.intc)
  obtain ⟨hpe', hpd'⟩ := countEnable_counts s.intc
  exact ⟨hpe.trans hpe', hpd.trans (congrArg _ hpd')⟩

/-- The countdowns leave none armed, so the boundary is reached again. -/
theorem AfterExec.countdowns_atRest {s : State} (h : AfterExec s) : AtRest (countdowns s) := by
  obtain ⟨hregs, -⟩ := countdowns_frame s
  obtain ⟨hpe, hpd⟩ := countdowns_counts s
  refine ⟨⟨hregs ▸ h.flags, ?_⟩, hpe ▸ Countdown.next_ne_armed _, hpd ▸ Countdown.next_ne_armed _⟩
  rw [hpe, hpd]
  exact h.exclusive.imp (congrArg Countdown.next) (congrArg Countdown.next)

theorem AtRest.dispatch_boundary {s : State} (h : AtRest s) (hs : s.fault = none) (i : IrqSource) :
    Answers (dispatch i s) Boundary := by
  have hsp : AtRest (s.setSp (pushAddress s)) := h.congr rfl rfl rfl
  refine answers_dispatch (fun u t hu ht => ?_) (fun hn => hsp.latch (isFatal_of_busWrite_none hn)) fun u hu hn =>
    (hsp.store hu).latch (isFatal_of_busWrite_none hn)
  obtain ⟨-, -, -, -, -, hfu, -⟩ := busWrite_frame hu
  obtain ⟨-, -, -, -, -, hft, -⟩ := busWrite_frame ht
  have hrest : AtRest (enterVector t i) := ((hsp.store hu).store ht).congr rfl rfl rfl
  exact hrest.safe ((hft.trans hfu).trans hs)

theorem AfterExec.interruptPhase_boundary {s : State} (h : AfterExec s) (hs : s.fault = none) :
    Answers (interruptPhase s) Boundary := by
  have hsafe : (countdowns s).fault = none := by
    obtain ⟨-, -, -, hf, -⟩ := countdowns_frame s
    exact hf.trans hs
  have hrest := h.countdowns_atRest
  exact answers_interruptPhase (fun _ => hrest.safe hsafe) fun i _ _ => hrest.dispatch_boundary hsafe i

/-- The ticks and the interrupt phase (R93). -/
theorem AfterExec.tickN_boundary {s : State} (h : AfterExec s) (hs : s.fault = none) (n : Nat) :
    Answers (interruptPhase (tickN n s)) Boundary := by
  obtain ⟨hregs, -, -, hf, -, -, -, hpe, hpd, -⟩ := tickN_frame n s
  exact AfterExec.interruptPhase_boundary ⟨hregs ▸ h.flags, hpe ▸ hpd ▸ h.exclusive⟩ (hf.trans hs)

/-! ### The Operation and the Step -/

theorem InstrFrame.atRest {i : Instr} {s t : State} (h : InstrFrame i s t) (hs : AtRest s) : AtRest t :=
  have hpe := h.control.pe
  have hpd := h.control.pd
  ⟨⟨h.low hs.flags, hpe ▸ hpd ▸ hs.exclusive⟩, hpe ▸ hs.enable, hpd ▸ hs.disable⟩

/-- An Operation that latches a fault leaves the boundary's invariant, any other at most an armed countdown. -/
theorem Ends.boundary {i : Instr} {s t : State} (h : Ends i s t) (hi : i.wellFormed = true) (hr : AtRest s)
    (hs : s.fault = none) : (t.fault ≠ none → Boundary t) ∧ (t.fault = none → AfterExec t) := by
  cases h with
  | done h =>
    have hf := h.control.fault.trans hs
    exact ⟨absurd hf, fun _ => (h.atRest hr).toAfterExec⟩
  | latched h hf => exact ⟨fun _ => (h.atRest hr).latch (hf hi), nofun⟩
  | halted => exact ⟨absurd hs, fun _ => ⟨hr.flags, hr.exclusive⟩⟩
  | enabling => exact ⟨absurd hs, fun _ => ⟨hr.flags, .inr rfl⟩⟩
  | disabling => exact ⟨absurd hs, fun _ => ⟨hr.flags, .inl rfl⟩⟩
  | returned v _ h =>
    have hf := h.control.fault.trans hs
    exact ⟨absurd hf, fun _ => ⟨h.low hr.flags, .inl rfl⟩⟩

theorem AtRest.finishStep_boundary {i : Instr} {s : State} (h : AtRest s) (hs : s.fault = none) (hi : Fetchable i)
    (n : Nat) : Answers (finishStep n (exec i s)) Boundary := by
  obtain ⟨hwf, hne⟩ := hi
  refine answers_finishStep ((exec_ends hne s).mono fun t ht => ?_)
  obtain ⟨hfault, hsafe⟩ := ht.boundary hwf h hs
  exact ⟨hfault, fun hn => (hsafe hn).tickN_boundary hn n⟩

theorem AtRest.step_boundary {s t : State} (h : AtRest s) (e : step s = .next t) : Boundary t := by
  obtain ⟨hregs, -, -, hfault, -, -, -, hpe, hpd, -⟩ := takeRequest_frame s
  have hr : AtRest (takeRequest s) := h.congr (by rw [hregs]) hpe hpd
  unfold step at e
  split at e
  · cases e
  · next hs =>
    rw [hs] at hfault
    refine Answers.of_eq (answers_ite (hr.tickN_boundary hfault haltTicks) ?_) e
    have hpc : ∀ pc, AtRest ((takeRequest s).setPc pc) := fun _ => hr.congr rfl rfl rfl
    exact answers_withInstr (fun i pc hi => (hpc pc).finishStep_boundary hfault hi _) fun pc a ha => (hpc pc).latch ha

/-! ### The canonical form of the cells -/

theorem cellsWf_cellInvariant : CellInvariant fun s => s.mem.wf = true where
  frame h hm _ := hm ▸ h
  store := busWrite_wf

/-- Settles O10: the cells are kept by every store, the rest by the Operation up to an armed countdown, which the
interrupt phase counts down. -/
theorem stepKeepsInvariant : Obligations.StepKeepsInvariant := by
  unfold Obligations.StepKeepsInvariant
  intro s t h e
  have hb : Boundary t := AtRest.step_boundary ⟨⟨h.flags, h.exclusive⟩, h.enable, h.disable⟩ e
  exact { hb with cells := cellsWf_cellInvariant.step_keeps h.cells e }

end Sys2Proof.Machine
end

section
/-! The register file at reset and the register pairs (`10_state.md` R11, R13, R31 to R33). -/

namespace Sys2Proof.Machine

theorem Regs.reset_flags (b : Bool) :
    (Regs.reset b).f.getLsbD 7 = true ∧ (Regs.reset b).f.getLsbD 6 = false ∧
    (Regs.reset b).f.getLsbD 5 = b ∧ (Regs.reset b).f.getLsbD 4 = b := by
  cases b <;> decide

/-- Settles O12: the values are those of `Regs.reset`, whose F depends on the header checksum alone. -/
theorem bootRegisters : Obligations.BootRegisters := by
  unfold Obligations.BootRegisters
  intro p
  exact ⟨rfl, rfl, rfl, rfl, rfl, rfl, rfl, rfl, rfl, rfl, Regs.reset_flags _⟩

@[simp] theorem Regs.setBc_bc (g : Regs) (v : Word) : (g.setBc v).bc = v := word16_hi8_lo8 v
@[simp] theorem Regs.setDe_de (g : Regs) (v : Word) : (g.setDe v).de = v := word16_hi8_lo8 v
@[simp] theorem Regs.setHl_hl (g : Regs) (v : Word) : (g.setHl v).hl = v := word16_hi8_lo8 v

/-- The low byte of a word, masked as a write of AF masks F (R13). -/
theorem lo8_and_highNibble (v : Word) : lo8 v &&& 0xF0 = v.extractLsb' 4 4 ++ 0#4 := by
  have nibbles : lo8 v = v.extractLsb' 4 4 ++ v.extractLsb' 0 4 :=
    (BitVec.extractLsb'_append_extractLsb'_eq_extractLsb' (x := v) (start₁ := 0) (len₁ := 4) (len₂ := 4) rfl).symm
  have mask : (0xF0 : Byte) = 0xF#4 ++ 0#4 := by decide
  rw [nibbles, mask]
  exact BitVec.and_append.trans (congrArg₂ _ BitVec.and_allOnes BitVec.and_zero)

/-- AF reads back with the low nibble of F masked (R13). -/
@[simp] theorem Regs.setAf_af (g : Regs) (v : Word) : (g.setAf v).af = v &&& 0xFFF0 := by
  have mask : (0xFFF0 : Word) = word16 0xFF 0xF0 := by decide
  calc (g.setAf v).af
      = word16 (hi8 v &&& 0xFF) (lo8 v &&& 0xF0) :=
        congrArg₂ word16 BitVec.and_allOnes.symm (lo8_and_highNibble v).symm
    _ = word16 (hi8 v) (lo8 v) &&& word16 0xFF 0xF0 := BitVec.and_append.symm
    _ = v &&& 0xFFF0 := by rw [word16_hi8_lo8, ← mask]

/-- Settles O26: a pair is the concatenation of its halves, which `word16_hi8_lo8` reads back. -/
theorem pairsAreViews : Obligations.PairsAreViews := by
  unfold Obligations.PairsAreViews
  intro g v
  exact ⟨rfl, rfl, rfl, rfl, rfl, g.setBc_bc v, rfl, g.setDe_de v, rfl, g.setHl_hl v, rfl, g.setAf_af v⟩

end Sys2Proof.Machine
end

section
/-! The bus (`20_memory.md`): what a read and a write do at each kind of address of the map. From that the fatal ranges,
the device registers, the effect of a store and the byte order of a word. -/

namespace Sys2Proof.Machine

/-! ### The kinds of address (R52, R60) -/

/-- The addresses outside the fatal ranges: ROM (R53), the stubs (R61), RAM (R55 to R57), and the six registers with an
address (R60, R63). -/
inductive Mapped : Word → Prop
  | rom {a : Word} : a.toNat < 0x8000 → Mapped a
  | stub {a : Word} : IsStub a → Mapped a
  | ram {a : Word} : IsRam a → Mapped a
  | div : Mapped 0xFF04
  | tima : Mapped 0xFF05
  | tma : Mapped 0xFF06
  | tac : Mapped 0xFF07
  | iflag : Mapped 0xFF0F
  | ie : Mapped 0xFFFF

theorem mapped_of_not_isFatal {a : Word} (h : ¬ IsFatal a) : Mapped a := by
  have kinds : a.toNat < 0x8000 ∨ IsStub a ∨ IsRam a ∨ a.toNat = 0xFF04 ∨ a.toNat = 0xFF05 ∨ a.toNat = 0xFF06 ∨
      a.toNat = 0xFF07 ∨ a.toNat = 0xFF0F ∨ a.toNat = 0xFFFF := by
    have := a.isLt
    omega
  have register : ∀ n : Word, Mapped n → a.toNat = n.toNat → Mapped a := fun _ hn e => BitVec.eq_of_toNat_eq e ▸ hn
  rcases kinds with h | h | h | h | h | h | h | h | h
  · exact .rom h
  · exact .stub h
  · exact .ram h
  · exact register _ .div h
  · exact register _ .tima h
  · exact register _ .tma h
  · exact register _ .tac h
  · exact register _ .iflag h
  · exact register _ .ie h

theorem regionOf_of_isRam {a : Word} (h : IsRam a) : regionOf a = .cram ∨ regionOf a = .wram ∨ regionOf a = .hram := by
  have hr := regionOf_range a
  cases hc : regionOf a <;> simp only [hc, reduceCtorEq, or_false, or_true] at hr ⊢ <;> omega

theorem ioRegOf_of_isStub {a : Word} (h : IsStub a) : ioRegOf a = .stub := by
  simp (disch := bv_omega) only [ioRegOf, if_neg]

theorem regionOf_of_isStub {a : Word} (h : IsStub a) : regionOf a = .vram ∨ regionOf a = .oam ∨ regionOf a = .io := by
  have hr := regionOf_range a
  cases hc : regionOf a <;> simp only [hc, reduceCtorEq, or_false, or_true] at hr ⊢ <;> omega

section

variable (s : State) {a : Word} (v : Byte)

/-! ### One read and one write for each kind of address -/

theorem busRead_eq_none_iff : busRead s a = none ↔ IsFatal a := by
  refine ⟨isFatal_of_busRead_none, fun h => ?_⟩
  have hr := regionOf_range a
  unfold busRead
  cases hc : regionOf a <;> simp only [hc, reduceCtorEq] at hr ⊢ <;> omega

theorem busWrite_eq_none_iff : busWrite s a v = none ↔ IsFatal a :=
  (busWrite_none_iff_busRead v).trans (busRead_eq_none_iff s)

theorem busWrite_rom_ignored (h : a.toNat < 0x8000) : busWrite s a v = some s := by
  simp [busWrite, regionOf, h]

theorem busRead_ram (h : IsRam a) : busRead s a = some (s.mem.read a.toNat) := by
  rcases regionOf_of_isRam h with hr | hr | hr <;> simp only [busRead, hr]

theorem busWrite_ram (h : IsRam a) : busWrite s a v = some { s with mem := s.mem.write a.toNat v } := by
  rcases regionOf_of_isRam h with hr | hr | hr <;> simp only [busWrite, hr]

theorem busRead_stub (h : IsStub a) : busRead s a = some s.stubRead := by
  rcases regionOf_of_isStub h with hr | hr | hr <;> simp only [busRead, hr, ioRead, ioRegOf_of_isStub h]

theorem busWrite_stub (h : IsStub a) : busWrite s a v = some s := by
  rcases regionOf_of_isStub h with hr | hr | hr <;> simp only [busWrite, hr, ioWrite, ioRegOf_of_isStub h]

theorem busRead_div : busRead s 0xFF04 = some (hi8 s.timer.div) := rfl
theorem busRead_tima : busRead s 0xFF05 = some s.timer.tima := rfl
theorem busRead_tma : busRead s 0xFF06 = some s.timer.tma := rfl
theorem busRead_tac : busRead s 0xFF07 = some s.timer.tac := rfl
theorem busRead_iflag : busRead s 0xFF0F = some s.intc.iflag := rfl
theorem busRead_ie : busRead s 0xFFFF = some s.intc.ie := rfl

/-! ### A store as one function of its address -/

/-- The state after a store outside the fatal ranges: the cell of a RAM address or one register, or nothing. -/
def afterStore (s : State) (a : Word) (v : Byte) : State :=
  { s with
    mem := if IsRam a then s.mem.write a.toNat v else s.mem
    timer :=
      { div := if a = 0xFF04 then 0 else s.timer.div
        tima := if a = 0xFF05 then v else s.timer.tima
        tma := if a = 0xFF06 then v else s.timer.tma
        tac := if a = 0xFF07 then v else s.timer.tac }
    intc := { s.intc with
      iflag := if a = 0xFF0F then v else s.intc.iflag
      ie := if a = 0xFFFF then v else s.intc.ie } }

theorem busWrite_eq_afterStore (h : Mapped a) : busWrite s a v = some (afterStore s a v) := by
  cases h with
  | rom h =>
    rw [busWrite_rom_ignored s v h]
    simp (disch := bv_omega) only [afterStore, if_neg]
  | stub h =>
    rw [busWrite_stub s v h]
    simp (disch := bv_omega) only [afterStore, if_neg]
  | ram h =>
    rw [busWrite_ram s v h]
    simp (disch := bv_omega) only [afterStore, if_pos h, if_neg]
  | div | tima | tma | tac | iflag | ie => rfl

theorem afterStore_read (x : Word) :
    (afterStore s a v).mem.read x.toNat = if x = a ∧ IsRam a then v else s.mem.read x.toNat := by
  by_cases h : IsRam a
  · have hm : (afterStore s a v).mem = s.mem.write a.toNat v := if_pos h
    simp only [hm, Memory.read_write, BitVec.toNat_inj, h, and_true]
  · have hm : (afterStore s a v).mem = s.mem := if_neg h
    simp only [hm, h, and_false, if_false]

theorem busRead_afterStore_ne {x : Word} (hx : x ≠ a) : busRead (afterStore s a v) x = busRead s x := by
  by_cases hf : IsFatal x
  · rw [(busRead_eq_none_iff _).mpr hf, (busRead_eq_none_iff s).mpr hf]
  cases mapped_of_not_isFatal hf with
  | rom h => simp only [busRead_rom _ h, afterStore_read, hx, false_and, if_false]
  | ram h => simp only [busRead_ram _ h, afterStore_read, hx, false_and, if_false]
  | stub h => simp only [busRead_stub _ h, afterStore]
  | div | tima | tma | tac | iflag | ie =>
    simp only [busRead_div, busRead_tima, busRead_tma, busRead_tac, busRead_iflag, busRead_ie, afterStore,
      if_neg hx.symm]

theorem busRead_afterStore_same (h : Mapped a) : busRead (afterStore s a v) a =
    if ReadsBack a then some v else if a = 0xFF04 then some 0 else busRead s a := by
  cases h with
  | rom h =>
    simp (disch := bv_omega) only [busRead_rom _ h, afterStore_read, ReadsBack, if_neg]
  | stub h =>
    simp (disch := bv_omega) only [busRead_stub _ h, afterStore, ReadsBack, if_neg]
  | ram h => simp only [busRead_ram _ h, afterStore_read, h, true_and, if_true, ReadsBack, true_or]
  | div =>
    have hn : ¬ ReadsBack 0xFF04 := by decide
    have hz : hi8 0 = 0 := by decide
    rw [if_neg hn, if_pos rfl]
    exact congrArg some hz
  | tima | tma | tac | iflag | ie => exact (if_pos (by decide)).symm

theorem afterStore_stored (h : Mapped a) : Stored s (afterStore s a v) a v where
  others _ := busRead_afterStore_ne s v
  here := busRead_afterStore_same s v h
  div := rfl
  tima := rfl
  tma := rfl
  tac := rfl
  iflag := rfl
  ie := rfl
  control := ⟨rfl, rfl, rfl, rfl, rfl, rfl, rfl⟩

end

/-- Settles O24: at every mapped address the store is `afterStore`, whose fields are those of `Stored`. -/
theorem byteStoreEffect : Obligations.ByteStoreEffect := by
  unfold Obligations.ByteStoreEffect
  intro s a v ha
  have hm := mapped_of_not_isFatal ha
  exact ⟨afterStore s a v, busWrite_eq_afterStore s v hm, rfl, afterStore_stored s v hm⟩

/-! ### The word (R64 to R66) -/

theorem not_isFatal_of_isRam {a : Word} (h : IsRam a) : ¬ IsFatal a := by omega

theorem busRead_of_stored {s t : State} {a : Word} {v : Byte} (h : Stored s t a v) (ha : ReadsBack a) :
    busRead t a = some v := h.here.trans (if_pos ha)

theorem withRead16_some {s : State} {a : Word} {lo hi : Byte} {k : Word → Result} (hlo : busRead s a = some lo)
    (hhi : busRead s (a + 1) = some hi) : withRead16 s a k = k (word16 hi lo) :=
  (withRead_some hlo).trans (withRead_some hhi)

theorem withWrite16_some {s t u : State} {a v : Word} {k : State → Result} (hlo : busWrite s a (lo8 v) = some u)
    (hhi : busWrite u (a + 1) (hi8 v) = some t) : withWrite16 s a v k = k t :=
  (withWrite_some hlo).trans (withWrite_some hhi)

/-- Settles O25: the store of the high byte leaves the low byte, which is at another address. -/
theorem wordsAreLittleEndian : Obligations.WordsAreLittleEndian := by
  unfold Obligations.WordsAreLittleEndian
  intro s a v ha ha1
  obtain ⟨u, hu, -, hlo⟩ := byteStoreEffect s a (lo8 v) (not_isFatal_of_isRam ha)
  obtain ⟨t, ht, -, hhi⟩ := byteStoreEffect u (a + 1) (hi8 v) (not_isFatal_of_isRam ha1)
  have readLo : busRead t a = some (lo8 v) :=
    (hhi.others a (left_ne_add.mpr (by decide))).trans (busRead_of_stored hlo (.inl ha))
  have readHi : busRead t (a + 1) = some (hi8 v) := busRead_of_stored hhi (.inl ha1)
  refine ⟨t, withWrite16_some hu ht, readLo, readHi, fun k => ?_⟩
  rw [withRead16_some readLo readHi, word16_hi8_lo8]

/-! ### The map -/

/-- Settles O22: an access is refused in the fatal ranges and nowhere else. -/
theorem fatalRanges : Obligations.FatalRanges := by
  unfold Obligations.FatalRanges
  intro s a v
  constructor
  · intro ha
    exact ⟨fun _ => withRead_none ((busRead_eq_none_iff s).mpr ha),
      fun _ => withWrite_none ((busWrite_eq_none_iff s v).mpr ha)⟩
  · intro ha
    obtain ⟨w, hw⟩ := Option.ne_none_iff_exists'.mp (mt (busRead_eq_none_iff s).mp ha)
    obtain ⟨t, ht⟩ := Option.ne_none_iff_exists'.mp (mt (busWrite_eq_none_iff s v).mp ha)
    exact ⟨⟨w, fun _ => withRead_some hw⟩, t, fun _ => withWrite_some ht⟩

/-- Settles O23: the registers by their addresses, the stubs by their ranges. -/
theorem deviceRegisters : Obligations.DeviceRegisters := by
  unfold Obligations.DeviceRegisters
  intro s v
  exact ⟨busRead_div s, busRead_tima s, busRead_tma s, busRead_tac s, busRead_iflag s, busRead_ie s,
    rfl, rfl, rfl, rfl, rfl, rfl, fun a ha => ⟨busRead_stub s ha, busWrite_stub s v ha⟩⟩

end Sys2Proof.Machine
end

section
/-! The encoding (`30_encoding.md`). A row of the opcode tables is a list of bytes with the instruction the tables have
for it: `decode` reads rows, and `encode` writes back the bytes of the row it is given. -/

namespace Sys2Proof

open Sys2Proof.Machine

/-- The bytes of one instruction, opcode first, and the instruction the tables have for them (R100, R101, R103). -/
inductive Row : List Byte → Instr → Prop
  | op0 {op : Byte} {i : Instr} (h : primaryTable op = .op0 i) : Row [op] i
  | op8 {op n : Byte} {k : Byte → Instr} (h : primaryTable op = .op8 k) : Row [op, n] (k n)
  | op16 {op : Byte} {nn : Word} {k : Word → Instr} (h : primaryTable op = .op16 k) : Row [op, lo8 nn, hi8 nn] (k nn)
  | secondary {op2 : Byte} {i : Instr} (h : secondaryTable op2 = i) : Row [0xCB, op2] i

/-! ### The fields of an opcode byte (R91) -/

theorem exists_byteXYZ (op : Byte) :
    ∃ (x : Fin 4) (y z : Fin 8), op = byteXYZ (.ofFin x) (literalCode y) (literalCode z) :=
  ⟨(op.extractLsb' 6 2).toFin, (op.extractLsb' 3 3).toFin, (op.extractLsb' 0 3).toFin, by revert op; decide⟩

section
variable (x : BitVec 2) (y z : BitVec 3)

@[simp] theorem fieldX_byteXYZ : fieldX (byteXYZ x y z) = x.toNat := by revert x y z; decide
@[simp] theorem fieldY_byteXYZ : fieldY (byteXYZ x y z) = y.toNat := by revert x y z; decide
@[simp] theorem fieldZ_byteXYZ : fieldZ (byteXYZ x y z) = z.toNat := by revert x y z; decide
@[simp] theorem fieldP_byteXYZ : fieldP (byteXYZ x y z) = y.toNat / 2 := by revert x y z; decide
@[simp] theorem fieldQ_byteXYZ : fieldQ (byteXYZ x y z) = y.toNat % 2 := by revert x y z; decide
@[simp] theorem literalY_byteXYZ : literalY (byteXYZ x y z) = y.toFin := by revert x y z; decide

end

@[simp] theorem operand8_code (r : Reg8) : operand8 r.code.toNat = .reg r := by cases r <;> rfl
@[simp] theorem operand8_codeAtHl : operand8 codeAtHl.toNat = .atHl := rfl
@[simp] theorem literalCode_toFin (b : Fin 8) : (literalCode b).toFin = b := rfl
@[simp] theorem literalCode_toNat (b : Fin 8) : (literalCode b).toNat = b := rfl

/-- The index of an operand in the 3-bit register field (R98). -/
def Operand8.code (o : Operand8) : BitVec 3 :=
  match o with
  | .reg r => r.code
  | .atHl => codeAtHl

theorem code_operand8 (z : Fin 8) : (operand8 z).code = literalCode z := by revert z; decide

/-! ### Every well-formed instruction is in the tables -/

theorem row_encode {i : Instr} (hi : Fetchable i) : Row (encode i) i := by
  obtain ⟨hwf, hne⟩ := hi
  cases i with
  -- the opcode alone
  | ldABc | ldADe | ldBcA | ldDeA | ldHliA | ldHldA | ldAHli | ldAHld | ldCA | ldAC | ldSpHl | popAf
  | addHl | adcHl | subHl | sbcHl | andHl | xorHl | orHl | cpHl | incHl | decHl | daa | cpl | scf | ccf
  | rlca | rrca | rla | rra | jpHl | ret | reti | nop | halt | di | ei => exact .op0 rfl
  | ldRR dst src => cases dst <;> cases src <;> exact .op0 rfl
  | ldRHl r | ldHlR r | addR r | adcR r | subR r | sbcR r | andR r | xorR r | orR r | cpR r | incR r | decR r =>
    cases r <;> exact .op0 rfl
  | incRr p | decRr p | addHlRr p | pushRr p | popRr p => cases p <;> exact .op0 rfl
  | retCc cc => cases cc <;> exact .op0 rfl
  | rst t => exact .op0 (by simp [primaryTable, primaryBlock3])
  | illegal op =>
    have hop : op ∈ illegalOpcodes := of_decide_eq_true hwf
    fin_cases hop <;> exact .op0 rfl
  -- one operand byte
  | ldHlD8 | ldhA8A | ldhAA8 | ldHlSpR8 | addD8 | adcD8 | subD8 | sbcD8 | andD8 | xorD8 | orD8 | cpD8 | addSpR8 | jrR8
  | stop => exact .op8 rfl
  | ldRD8 dst => cases dst <;> exact .op8 rfl
  | jrCc cc => cases cc <;> exact .op8 rfl
  -- one operand word
  | ldA16A | ldAA16 | ldA16Sp | jpA16 | callA16 => exact .op16 rfl
  | ldRrD16 p => cases p <;> exact .op16 rfl
  | jpCc cc | callCc cc => cases cc <;> exact .op16 rfl
  -- the secondary table
  | rlcR | rrcR | rlR | rrR | slaR | sraR | swapR | srlR =>
    exact .secondary (by simp [secondaryTable, rotInstr])
  | bitR | bitHl | resR | resHl | setR | setHl =>
    exact .secondary (by simp [secondaryTable])
  | rlcHl | rrcHl | rlHl | rrHl | slaHl | sraHl | swapHl | srlHl => exact .secondary rfl
  | prefixCb => exact absurd rfl hne

/-! ### What the tables have is encoded by its bytes -/

/-- The entry `e` of the byte `op` is encoded by that byte and the operand byte `n` or word `nn` it calls for. -/
def Entry.Encodes (op n : Byte) (nn : Word) (e : Entry) : Prop :=
  match e with
  | .op0 i => encode i = [op]
  | .op8 k => encode (k n) = [op, n]
  | .op16 k => encode (k nn) = [op, lo8 nn, hi8 nn]
  | .escape => op = 0xCB
  | .unknown => False

section
variable (n : Byte) (nn : Word) (y z : Fin 8)

theorem primaryBlock0_encodes :
    (primaryBlock0 y z (y / 2) (y % 2)).Encodes (byteXYZ 0 (literalCode y) (literalCode z)) n nn := by
  fin_cases y <;> fin_cases z <;> rfl

theorem primaryBlock1_encodes :
    (primaryBlock1 y z).Encodes (byteXYZ 1 (literalCode y) (literalCode z)) n nn := by
  rw [← code_operand8 y, ← code_operand8 z]
  unfold primaryBlock1
  cases operand8 y <;> cases operand8 z <;> rfl

theorem encode_aluInstr (o : Operand8) : encode (aluInstr y o) = [byteXYZ 2 (literalCode y) o.code] := by
  cases o <;> fin_cases y <;> rfl

theorem primaryBlock3_encodes :
    (primaryBlock3 (byteXYZ 3 (literalCode y) (literalCode z)) y z (y / 2) (y % 2)).Encodes
      (byteXYZ 3 (literalCode y) (literalCode z)) n nn := by
  fin_cases y <;> fin_cases z <;> rfl

theorem primaryTable_encodes (op : Byte) : (primaryTable op).Encodes op n nn := by
  obtain ⟨x, y, z, rfl⟩ := exists_byteXYZ op
  simp only [primaryTable, fieldX_byteXYZ, fieldY_byteXYZ, fieldZ_byteXYZ, fieldP_byteXYZ, fieldQ_byteXYZ,
    literalCode_toNat]
  match x with
  | 0 => exact primaryBlock0_encodes n nn y z
  | 1 => exact primaryBlock1_encodes n nn y z
  | 2 => exact code_operand8 z ▸ encode_aluInstr y (operand8 z)
  | 3 => exact primaryBlock3_encodes n nn y z

theorem encodes_of_entry {op : Byte} {e : Entry} (h : primaryTable op = e) : e.Encodes op n nn :=
  h ▸ primaryTable_encodes n nn op

end

theorem encode_secondaryTable : ∀ op2, encode (secondaryTable op2) = [0xCB, op2] := by decide

section
variable {bytes : List Byte} {i : Instr} (h : Row bytes i)
include h

theorem Row.encode_eq : encode i = bytes := by
  cases h with
  | op0 h => exact encodes_of_entry 0 0 h
  | op8 h => exact encodes_of_entry _ 0 h
  | op16 h => exact encodes_of_entry 0 _ h
  | secondary h => exact h ▸ encode_secondaryTable _

theorem Row.fetchable : Fetchable i := by
  cases h with
  | op0 h =>
    have hwf := h ▸ primaryTable_wellFormed _
    simpa [Entry.wellFormed, Fetchable] using hwf
  | op8 h | op16 h =>
    have hop := h ▸ primaryTable_operandsFetchable _
    exact hop _
  | secondary h => exact h ▸ secondaryTable_fetchable _

/-! ### Decoding -/

theorem Row.decode_append (rest : List Byte) : decode (bytes ++ rest) = .instr i rest := by
  cases h with
  | op0 h | op8 h | op16 h => simp [decode, h]
  | secondary h => exact h ▸ rfl

end

/-- What is decoded is a row, or the lone byte 0xCB (log 9). -/
theorem row_of_decode {bytes rest : List Byte} {i : Instr} (h : decode bytes = .instr i rest) :
    (∃ own, Row own i ∧ bytes = own ++ rest) ∨ (bytes = [0xCB] ∧ i = .prefixCb ∧ rest = []) := by
  match bytes with
  | [] => cases h
  | op :: tail =>
    cases he : primaryTable op with
    | op0 i =>
      simp only [decode, he] at h
      cases h
      exact .inl ⟨_, .op0 he, rfl⟩
    | op8 k =>
      match tail with
      | [] => simp [decode, he] at h
      | n :: tail =>
        simp only [decode, he] at h
        cases h
        exact .inl ⟨_, .op8 he, rfl⟩
    | op16 k =>
      match tail with
      | [] | [_] => simp [decode, he] at h
      | lo :: hi :: tail =>
        simp only [decode, he] at h
        cases h
        exact .inl ⟨_, .op16 he, by simp⟩
    | escape =>
      obtain rfl : op = 0xCB := encodes_of_entry 0 0 he
      match tail with
      | [] =>
        simp only [decode, he] at h
        cases h
        exact .inr ⟨rfl, rfl, rfl⟩
      | op2 :: tail =>
        simp only [decode, he] at h
        cases h
        exact .inl ⟨_, .secondary rfl, rfl⟩
    | unknown => simp [decode, he] at h

/-- Settles O1: every well-formed instruction but the lone byte 0xCB is in the tables. -/
theorem decodeUndoesEncode : Obligations.DecodeUndoesEncode := by
  unfold Obligations.DecodeUndoesEncode
  intro i rest hwf hne
  exact (row_encode ⟨hwf, hne⟩).decode_append rest

/-- Settles O2: what is decoded is a row of the tables, or the lone byte 0xCB. -/
theorem decodedBytesAreTheEncoding : Obligations.DecodedBytesAreTheEncoding := by
  unfold Obligations.DecodedBytesAreTheEncoding
  intro bytes rest i h
  rcases row_of_decode h with ⟨own, hrow, rfl⟩ | ⟨rfl, rfl, rfl⟩
  · obtain ⟨hwf, hne⟩ := hrow.fetchable
    exact ⟨by rw [hrow.encode_eq], hwf, fun hi => absurd hi hne⟩
  · exact ⟨rfl, rfl, fun _ => rfl⟩

end Sys2Proof
end

section
/-! The secondary table (`30_encoding.md` R101, R103, R107) and the byte 0xCB that leads to it (`46_system.md` R295). -/

namespace Sys2Proof.Machine

theorem decode_cb (op2 : Byte) (rest : List Byte) :
    decode (0xCB :: op2 :: rest) = .instr (secondaryTable op2) rest := rfl

theorem secondaryTable_ne_illegal (op2 op : Byte) : secondaryTable op2 ≠ .illegal op := fun h => by
  simpa [h, encode] using encode_secondaryTable op2

/-! ### The tick counts of R107 -/

theorem ticks_rotInstr_reg (y : Nat) (r : Reg8) (s : State) : ticks (rotInstr y (.reg r)) s = 8 := by
  match y with
  | 0 | 1 | 2 | 3 | 4 | 5 | 6 | _ + 7 => rfl

theorem ticks_rotInstr_atHl (y : Nat) (s : State) : ticks (rotInstr y .atHl) s = 16 := by
  match y with
  | 0 | 1 | 2 | 3 | 4 | 5 | 6 | _ + 7 => rfl

theorem ticks_secondaryTable (op2 : Byte) (s : State) : ticks (secondaryTable op2) s = secondaryTicks op2 := by
  unfold secondaryTable secondaryTicks
  generalize fieldX op2 = x, operand8 (fieldZ op2) = o
  match x, o with
  | 0, .reg r => exact ticks_rotInstr_reg _ r s
  | 0, .atHl => exact ticks_rotInstr_atHl _ s
  | 1, .reg _ | 2, .reg _ | _ + 3, .reg _ => rfl
  | 1, .atHl | 2, .atHl | _ + 3, .atHl => rfl

theorem secondaryTicks_eq : ∀ op2 : Byte, secondaryTicks op2 =
    if op2.toNat % 8 ≠ 6 then 8 else if 0x40 ≤ op2.toNat ∧ op2.toNat ≤ 0x7F then 12 else 16 := by decide

theorem secondaryTicks_cases (op2 : Byte) :
    secondaryTicks op2 = 8 ∨ secondaryTicks op2 = 12 ∨ secondaryTicks op2 = 16 := by
  unfold secondaryTicks
  split <;> simp

/-! ### Both tables are total -/

theorem decode_ne_unknownOpcode (bytes : List Byte) (op : Byte) : decode bytes ≠ .reject (.unknownOpcode op) := by
  match bytes with
  | [] => nofun
  | op' :: tail =>
    cases he : primaryTable op' with
    | op0 i => simp [decode, he]
    | op8 | op16 | escape =>
      simp only [decode, he]
      split <;> simp
    | unknown => exact absurd (he ▸ primaryTable_wellFormed op') nofun

/-- Settles O4: the primary table has an entry for every byte, the secondary table an instruction for every second
byte, which is encoded in two bytes and so is neither the lone 0xCB nor ILLEGAL. -/
theorem tablesAreTotal : Obligations.TablesAreTotal := by
  unfold Obligations.TablesAreTotal
  refine ⟨decode_ne_unknownOpcode, fun op2 rest => ?_, fun _ => rfl⟩
  obtain ⟨-, -, -, -, hne⟩ := secondaryTable_ne op2
  refine ⟨secondaryTable op2, decode_cb op2 rest, encode_secondaryTable op2, hne, secondaryTable_ne_illegal op2,
    fun s => ?_⟩
  rw [ticks_secondaryTable]
  exact secondaryTicks_cases op2

/-! ### The byte 0xCB (R295) -/

section
variable {s : State} {op2 : Byte}

theorem withFetch8_fatal {k : Byte → State → Result} (h : IsFatal s.regs.pc) :
    withFetch8 s k = raise s (.busAccessError s.regs.pc .read) :=
  withRead_none ((busRead_eq_none_iff s).mpr h)

theorem exec_prefixCb (h : busRead s s.regs.pc = some op2) :
    exec .prefixCb s = exec (secondaryTable op2) (s.setPc (s.regs.pc + 1)) :=
  (withFetch8_some h).trans (execSecondary_eq op2 _)

theorem ticks_prefixCb (h : busRead s s.regs.pc = some op2) (t : State) :
    ticks .prefixCb s = ticks (secondaryTable op2) t := by
  rw [ticks_secondaryTable, ticks, h, Option.getD_some]

end

/-- Settles O57: the byte 0xCB runs the instruction of the secondary table for the byte it fetches. -/
theorem prefixRunsTheSecondary : Obligations.PrefixRunsTheSecondary := by
  unfold Obligations.PrefixRunsTheSecondary
  refine ⟨fun s op2 i h hd => ?_, fun s h => withFetch8_fatal h⟩
  cases hd
  obtain ⟨-, -, -, -, hne⟩ := secondaryTable_ne op2
  obtain ⟨t, ht, -⟩ := exec_ends hne (s.setPc (s.regs.pc + 1))
  exact ⟨exec_prefixCb h, ticks_prefixCb h _, t, (exec_prefixCb h).trans ht⟩

end Sys2Proof.Machine
end

section
/-! The tick counts of R106, followed through the instructions: an instruction's count stands in the table at the first
byte of its encoding. -/

namespace Sys2Proof.Machine

/-- The count R106 lists for the byte `op`: of two, the one its condition calls for in the state `s`. -/
def opcodeTicks (op : Byte) (s : State) : Nat :=
  if opcodeTakes op s then primaryTicks.getD op.toNat 0
  else (notTakenTicks.lookup op.toNat).getD (primaryTicks.getD op.toNat 0)

section
variable {op : Byte} {n : Nat} (s : State) (hn : primaryTicks.getD op.toNat 0 = n)
include hn

theorem opcodeTicks_of_one_count (hm : notTakenTicks.lookup op.toNat = none) : n = opcodeTicks op s := by
  rw [opcodeTicks, hn, hm, Option.getD_none, ite_self]

theorem opcodeTicks_of_two_counts {cc : Cond} {m : Nat} (hcc : opcodeTakes op s = s.cond cc)
    (hm : notTakenTicks.lookup op.toNat = some m) : (if s.cond cc then n else m) = opcodeTicks op s := by
  rw [opcodeTicks, hcc, hn, hm, Option.getD_some]

end

/-- Bits 4 and 3 of an opcode with a condition field are that field (R99, R270). -/
theorem opcodeTakes_byteCc (high : BitVec 3) (cc : Cond) (low : BitVec 3) (s : State) :
    opcodeTakes (byteCc high cc.code low) s = s.cond cc := by
  have field : ∀ (h : BitVec 3) (c : BitVec 2) (l : BitVec 3), (byteCc h c l).toNat / 8 % 4 = c.toNat := by decide
  unfold opcodeTakes
  rw [field]
  cases cc <;> rfl

/-- The first byte of an instruction. -/
def opcodeOf (i : Instr) : Byte := (encode i).headD 0

theorem opcodeOf_of_decode {op : Byte} {tail rest : List Byte} {i : Instr} (h : decode (op :: tail) = .instr i rest) :
    opcodeOf i = op := by
  obtain ⟨hbytes, -⟩ := decodedBytesAreTheEncoding _ _ _ h
  have hne : encode i ≠ [] := by cases i <;> exact List.cons_ne_nil _ _
  obtain ⟨b, bs, henc⟩ := List.exists_cons_of_ne_nil hne
  rw [henc, List.cons_append] at hbytes
  exact (congrArg (List.headD · 0) henc).trans (List.cons.inj hbytes).1.symm

theorem ticks_eq_opcodeTicks {i : Instr} (hwf : i.wellFormed = true) (hcb : opcodeOf i ≠ 0xCB)
    (hlegal : opcodeOf i ∉ illegalOpcodes) (s : State) : ticks i s = opcodeTicks (opcodeOf i) s := by
  cases i with
  -- two counts, the condition in the opcode
  | jpCc cc | jrCc cc | callCc cc | retCc cc =>
    cases cc <;> exact opcodeTicks_of_two_counts s (by rfl) (opcodeTakes_byteCc _ _ _ s) (by rfl)
  -- one count, a field of the opcode open
  | ldRR dst src => cases dst <;> cases src <;> exact opcodeTicks_of_one_count s (by rfl) (by rfl)
  | ldRHl r | ldHlR r | ldRD8 r | addR r | adcR r | subR r | sbcR r | andR r | xorR r | orR r | cpR r | incR r
  | decR r =>
    cases r <;> exact opcodeTicks_of_one_count s (by rfl) (by rfl)
  | ldRrD16 p | incRr p | decRr p | addHlRr p | pushRr p | popRr p =>
    cases p <;> exact opcodeTicks_of_one_count s (by rfl) (by rfl)
  | rst t => fin_cases t <;> exact opcodeTicks_of_one_count s (by rfl) (by rfl)
  -- one count, one opcode
  | ldHlD8 | ldABc | ldADe | ldBcA | ldDeA | ldHliA | ldHldA | ldAHli | ldAHld | ldhA8A | ldhAA8 | ldCA | ldAC
  | ldA16A | ldAA16 | ldA16Sp | ldSpHl | ldHlSpR8 | popAf
  | addHl | addD8 | adcHl | adcD8 | subHl | subD8 | sbcHl | sbcD8 | andHl | andD8 | xorHl | xorD8 | orHl | orD8
  | cpHl | cpD8 | incHl | decHl | daa | cpl | scf | ccf | addSpR8 | rlca | rrca | rla | rra
  | jpA16 | jpHl | jrR8 | callA16 | ret | reti | nop | stop | halt | di | ei =>
    exact opcodeTicks_of_one_count s (by rfl) (by rfl)
  -- no count in R106
  | rlcR | rlcHl | rrcR | rrcHl | rlR | rlHl | rrR | rrHl | slaR | slaHl | sraR | sraHl | swapR | swapHl | srlR | srlHl
  | bitR | bitHl | resR | resHl | setR | setHl | prefixCb => exact absurd rfl hcb
  | illegal op => exact absurd (of_decide_eq_true hwf) hlegal

/-- Settles O60: the bytes decode to the instruction they encode, whose opcode is the first of them. -/
theorem tickCounts : Obligations.TickCounts := by
  unfold Obligations.TickCounts
  constructor
  · intro op n m rest i s h hcb hlegal
    obtain ⟨-, hwf, -⟩ := decodedBytesAreTheEncoding _ _ _ h
    obtain rfl := opcodeOf_of_decode h
    exact ticks_eq_opcodeTicks hwf hcb hlegal s
  · intro op2 rest i s h
    cases h
    rw [ticks_secondaryTable]
    exact secondaryTicks_eq op2

end Sys2Proof.Machine
end

section
/-! The fetch of one instruction (`30_encoding.md` R93 to R96): the row whose bytes stand at PC is the instruction a
Step performs, and a fetch at a fatal address stops it there. -/

namespace Sys2Proof.Machine

section
variable {s : State} {k : Instr → State → Result}

@[simp] theorem State.setPc_setPc (s : State) (v w : Word) : (s.setPc v).setPc w = s.setPc w := rfl

/-! ### One rule per kind of entry -/

section
variable {op : Byte} (hop : busRead s s.regs.pc = some op)
include hop

theorem withInstr_op0 {i : Instr} (h : primaryTable op = .op0 i) :
    withInstr s k = k i (s.setPc (s.regs.pc + 1)) := by
  rw [withInstr, withFetch8_some hop]; simp only [h]

theorem withInstr_op8 {f : Byte → Instr} (h : primaryTable op = .op8 f) :
    withInstr s k = withFetch8 (s.setPc (s.regs.pc + 1)) fun n t => k (f n) t := by
  rw [withInstr, withFetch8_some hop]; simp only [h]

theorem withInstr_op16 {f : Word → Instr} (h : primaryTable op = .op16 f) :
    withInstr s k = withFetch16 (s.setPc (s.regs.pc + 1)) fun nn t => k (f nn) t := by
  rw [withInstr, withFetch8_some hop]; simp only [h]

end

theorem withInstr_cb (hop : busRead s s.regs.pc = some 0xCB) :
    withInstr s k = withFetch8 (s.setPc (s.regs.pc + 1)) fun op2 t => k (secondaryTable op2) t :=
  withFetch8_some hop

/-! ### A row at PC -/

theorem withInstr_of_row {bytes : List Byte} {i : Instr} (h : Row bytes i) (hb : Holds s s.regs.pc bytes) :
    withInstr s k = k i (s.setPc (s.regs.pc + BitVec.ofNat 16 bytes.length)) := by
  cases h with
  | op0 h =>
    obtain ⟨hop, -⟩ := hb
    exact withInstr_op0 hop h
  | op8 h =>
    obtain ⟨hop, hn, -⟩ := hb
    rw [withInstr_op8 hop h, withFetch8_some hn]
    simp [add_assoc]
  | op16 h =>
    obtain ⟨hop, hlo, hhi, -⟩ := hb
    rw [withInstr_op16 hop h, withFetch16, withFetch8_some hlo, withFetch8_some hhi]
    simp [add_assoc]
  | secondary h =>
    obtain ⟨hop, hop2, -⟩ := hb
    rw [withInstr_cb hop, withFetch8_some hop2]
    simp [add_assoc, h]

/-- The fetch of a row whose first `n + 1` bytes are read and whose next address is fatal. -/
theorem withInstr_of_row_fatal {bytes : List Byte} {i : Instr} {n : Nat} (h : Row bytes i) (hn : n + 1 < bytes.length)
    (hb : Holds s s.regs.pc (bytes.take (n + 1))) (hf : IsFatal (s.regs.pc + BitVec.ofNat 16 (n + 1))) :
    withInstr s k = raise (s.setPc (s.regs.pc + BitVec.ofNat 16 (n + 1)))
      (.busAccessError (s.regs.pc + BitVec.ofNat 16 (n + 1)) .read) := by
  obtain ⟨op, tail, rfl⟩ := List.exists_cons_of_length_pos (Nat.lt_of_le_of_lt (Nat.zero_le _) hn)
  obtain ⟨hop, hb⟩ := hb
  match n with
  | 0 =>
    cases h with
    | op0 => simp at hn
    | op8 h => exact (withInstr_op8 hop h).trans (withFetch8_fatal hf)
    | op16 h => exact (withInstr_op16 hop h).trans (withFetch8_fatal hf)
    | secondary => exact (withInstr_cb hop).trans (withFetch8_fatal hf)
  | 1 =>
    cases h with
    | op0 | op8 | secondary => simp at hn
    | op16 h =>
      obtain ⟨hlo, -⟩ := hb
      have hpc : s.regs.pc + 1 + 1 = s.regs.pc + BitVec.ofNat 16 (1 + 1) := add_assoc _ _ _
      rw [withInstr_op16 hop h, withFetch16, withFetch8_some hlo, ← hpc]
      exact withFetch8_fatal (hpc ▸ hf)
  | m + 2 =>
    have hlen : (op :: tail).length ≤ 3 := by cases h <;> simp
    omega

end

/-! ### The byte 0xCB -/

/-- Fetching the second byte before the Operation or within that of the byte 0xCB is the same. -/
theorem finishStep_prefixCb (s : State) :
    withFetch8 s (fun op2 t => finishStep (ticks (secondaryTable op2) t) (exec (secondaryTable op2) t)) =
      finishStep (ticks .prefixCb s) (exec .prefixCb s) := by
  cases h : busRead s s.regs.pc with
  | none =>
    have hexec : exec .prefixCb s = raise s (.busAccessError s.regs.pc .read) := withRead_none h
    rw [withFetch8, withRead_none h, hexec]
    rfl
  | some op2 => rw [withFetch8_some h, exec_prefixCb h, ticks_prefixCb h]

/-! ### The Step -/

section
variable {s : State}

theorem takeRequest_regs (s : State) : (takeRequest s).regs = s.regs :=
  (takeRequest_frame s).1

theorem step_of_fetching (hf : s.fault = none) (hh : s.halted = false) :
    step s = withInstr (takeRequest s) fun i t => finishStep (ticks i t) (exec i t) := by
  obtain ⟨-, -, hhalted, -⟩ := takeRequest_frame s
  simp [step, hf, hhalted, hh]

theorem step_of_halted (hf : s.fault = none) (hh : s.halted = true) : step s = haltedStep (takeRequest s) := by
  obtain ⟨-, -, hhalted, -⟩ := takeRequest_frame s
  simp [step, hf, hhalted, hh]

theorem step_of_fetches {i : Instr} (hi : i.wellFormed = true) (h : Fetches s (encode i)) : step s =
    finishStep (ticks i ((takeRequest s).setPc (s.regs.pc + BitVec.ofNat 16 (encode i).length)))
      (exec i ((takeRequest s).setPc (s.regs.pc + BitVec.ofNat 16 (encode i).length))) := by
  obtain ⟨hf, hh, hb⟩ := h
  rw [← takeRequest_regs s] at hb ⊢
  rw [step_of_fetching hf hh]
  by_cases hne : i = .prefixCb
  · subst hne
    obtain ⟨hop, -⟩ := hb
    exact (withInstr_cb hop).trans (finishStep_prefixCb _)
  · exact withInstr_of_row (row_encode ⟨hi, hne⟩) hb

end

theorem hostMask_getLsbD (j : Nat) : hostMask.getLsbD j = decide (j = 0 ∨ j = 1 ∨ j = 3 ∨ j = 4) := by
  by_cases hj : j < 8
  · revert j; decide
  · rw [BitVec.getLsbD_of_ge _ _ (Nat.le_of_not_lt hj)]
    simp; omega

/-- Settles O6: the bytes at PC are a row of the tables, or the lone byte 0xCB, whose Operation fetches what the
Step would have fetched. -/
theorem stepRunsDecodedInstruction : Obligations.StepRunsDecodedInstruction := by
  unfold Obligations.StepRunsDecodedInstruction
  refine ⟨fun s i hi h => step_of_fetches hi h, fun s hf hh => step_of_halted hf hh, fun n t ht => ?_, fun n t ht => ?_,
    fun s hs => ?_, fun s m ms hs => ?_⟩
  · rw [finishStep_next, if_neg ht]
  · rw [finishStep_next, if_pos ht]
  · simp [takeRequest, hs]
  · have htake : takeRequest s = { hostRequest s m with requests := ms } := by simp [takeRequest, hs]
    rw [htake]
    refine ⟨rfl, fun j => ?_⟩
    simp [hostRequest, hostMask_getLsbD, Bool.and_comm]

/-- Settles O7: the fetch reads the bytes of a row up to the fatal address. -/
theorem fetchStopsAtFatalAddress : Obligations.FetchStopsAtFatalAddress := by
  unfold Obligations.FetchStopsAtFatalAddress
  intro s i k hi hk h hfatal
  obtain ⟨hf, hh, hb⟩ := h
  rw [← takeRequest_regs s] at hb hfatal ⊢
  rw [step_of_fetching hf hh]
  match k with
  | 0 =>
    rw [BitVec.add_zero] at hfatal ⊢
    exact withFetch8_fatal hfatal
  | n + 1 =>
    have hne : i ≠ .prefixCb := by rintro rfl; simp [encode] at hk
    exact withInstr_of_row_fatal (row_encode ⟨hi, hne⟩) hk hb hfatal

end Sys2Proof.Machine
end

section
/-! The eleven illegal opcodes (`30_encoding.md` R102, `46_system.md` R296). -/

namespace Sys2Proof.Machine

/-- The Operation of ILLEGAL, from the state past its byte, names the address of that byte. -/
theorem exec_illegal_setPc (op : Byte) (s : State) (pc : Word) :
    exec (.illegal op) (s.setPc (pc + 1)) =
      .next { s.setPc (pc + 1) with fault := some (.illegalInstruction op pc) } := by
  have hpc : (s.setPc (pc + 1)).regs.pc - 1 = pc := add_sub_cancel_right pc 1
  exact congrArg (fun a => raise (s.setPc (pc + 1)) (.illegalInstruction op a)) hpc

theorem step_of_illegal {s : State} {op : Byte} (hop : op ∈ illegalOpcodes) (h : Fetches s [op]) :
    step s = .next { (takeRequest s).setPc (s.regs.pc + 1) with
      fault := some (.illegalInstruction op s.regs.pc) } := by
  have hwf : (Instr.illegal op).wellFormed = true := decide_eq_true hop
  refine (step_of_fetches hwf h).trans ?_
  exact congrArg (finishStep _) (exec_illegal_setPc op _ _)

set_option maxRecDepth 2000 in
/-- The primary opcodes that are neither illegal nor the byte 0xCB: all but twelve. -/
theorem legalOpcodes_count :
    ((List.range 256).countP fun n => decide (BitVec.ofNat 8 n ∉ illegalOpcodes ∧ n ≠ 0xCB)) = 244 := by decide

/-- Settles O3: ILLEGAL is well formed for these bytes only and is encoded by one of them alone. -/
theorem illegalOpcodesAreTheEleven : Obligations.IllegalOpcodesAreTheEleven := by
  unfold Obligations.IllegalOpcodesAreTheEleven
  refine ⟨fun op => Iff.rfl, fun op rest hop => ?_, fun bytes rest op h => ?_, fun op rest _ => ?_, legalOpcodes_count,
    fun s op hop h => step_of_illegal hop h⟩
  · exact decodeUndoesEncode (.illegal op) rest (decide_eq_true hop) nofun
  · obtain ⟨hbytes, hwf, -⟩ := decodedBytesAreTheEncoding _ _ _ h
    exact ⟨of_decide_eq_true hwf, hbytes⟩
  · exact ⟨rfl, secondaryTable op, decode_cb op rest, secondaryTable_ne_illegal op⟩

end Sys2Proof.Machine
end

section
/-! Words of every family, decoded (`30_encoding.md` R106, R107). -/

namespace Sys2Proof.Machine

/-- Settles O5: each word is closed, and the decoder computes its instruction. -/
theorem sampleWordsDecode : Obligations.SampleWordsDecode := by
  unfold Obligations.SampleWordsDecode
  exact ⟨rfl, rfl, rfl, rfl, rfl, rfl, rfl, rfl, rfl, rfl, rfl, rfl, rfl, rfl, rfl, rfl, rfl, rfl, rfl⟩

end Sys2Proof.Machine
end

section
/-! The 8-bit loads (`40_load8.md`): a register takes a byte (R120, R121, R123, R125, R126, R134, R136, R138), a byte
goes to memory (R122, R124, R127, R128, R133, R135, R137), and the four forms that move HL by one after the transfer
(R129 to R132). -/

namespace Sys2Proof.Machine

/-! ### A register written -/

theorem onlyReg_setReg (s : State) (dst : Reg8) (v : Byte) : OnlyReg dst s (s.setReg dst v) where
  others _ := State.setReg_reg_ne s v
  f := s.setReg_f dst v
  sp := s.setReg_sp dst v
  pc := s.setReg_pc dst v

/-- A register holds no byte of the address space and no control state. -/
theorem storesNothing_withRegs (s : State) (g : Regs) : StoresNothing s { s with regs := g } where
  memory _ := rfl
  div := rfl
  control := ⟨rfl, rfl, rfl, rfl, rfl, rfl, rfl⟩

theorem setReg_effect (s : State) (dst : Reg8) (v : Byte) :
    (s.setReg dst v).reg dst = v ∧ OnlyReg dst s (s.setReg dst v) ∧ StoresNothing s (s.setReg dst v) :=
  ⟨s.setReg_reg_same dst v, onlyReg_setReg s dst v, storesNothing_withRegs s _⟩

/-- Settles O29: the next state is `setReg` of the destination. -/
theorem registerLoads : Obligations.RegisterLoads := by
  unfold Obligations.RegisterLoads
  intro s dst src n
  exact ⟨⟨_, rfl, setReg_effect s dst (s.reg src)⟩, ⟨_, rfl, setReg_effect s dst n⟩⟩

/-! ### A byte loaded -/

theorem exists_busRead (s : State) {a : Word} (ha : ¬ IsFatal a) : ∃ v, busRead s a = some v :=
  Option.ne_none_iff_exists'.mp (mt (busRead_eq_none_iff s).mp ha)

/-- Each form of load is one read into its destination. -/
theorem exec_of_loadForm {i : Instr} {s : State} {dst : Reg8} {a : Word} (h : loadForm i s = some (dst, a)) :
    exec i s = withRead s a fun v => .next (s.setReg dst v) := by
  cases i with
  | ldRHl | ldABc | ldADe | ldhAA8 | ldAC | ldAA16 =>
    cases h
    rfl
  | _ => cases h

/-- Settles O30: outside the fatal ranges the one read answers a byte, and only registers are written with it. -/
theorem memoryLoads : Obligations.MemoryLoads := by
  unfold Obligations.MemoryLoads
  constructor
  · intro i s dst a h ha
    obtain ⟨v, hv⟩ := exists_busRead s ha
    exact ⟨v, s.setReg dst v, hv, (exec_of_loadForm h).trans (withRead_some hv), setReg_effect s dst v⟩
  · intro s ha
    obtain ⟨v, hv⟩ := exists_busRead s ha
    exact ⟨v, (s.setA v).setHl (s.hl + 1), (s.setA v).setHl (s.hl - 1), hv,
      withRead_some hv, rfl, storesNothing_withRegs s _, withRead_some hv, rfl, storesNothing_withRegs s _⟩

/-! ### A byte stored -/

/-- Each form of store is one write. -/
theorem exec_of_storeForm {i : Instr} {s : State} {a : Word} {v : Byte} (h : storeForm i s = some (a, v)) :
    exec i s = withWrite s a v .next := by
  cases i with
  | ldHlR | ldHlD8 | ldBcA | ldDeA | ldhA8A | ldCA | ldA16A =>
    cases h
    rfl
  | _ => cases h

theorem stored_withRegs {s t : State} {a : Word} {v : Byte} (h : Stored s t a v) (g : Regs) :
    Stored s { t with regs := g } a v :=
  { h with control := { h.control with } }

/-- A store at HL after which HL moves: the store keeps the registers, so it is the old HL that moves (R129, R130). -/
theorem storeAtHl_then_move (s : State) (v : Byte) (move : Word → Word) (ha : ¬ IsFatal s.hl) :
    ∃ t, (withWrite s s.hl v fun u => .next (u.setHl (move u.hl))) = .next t ∧ Stored s t s.hl v ∧
      t.regs = s.regs.setHl (move s.hl) := by
  obtain ⟨u, hu, hregs, hst⟩ := byteStoreEffect s s.hl v ha
  exact ⟨u.setHl (move u.hl), withWrite_some hu, stored_withRegs hst _, by simp only [State.setHl, State.hl, hregs]⟩

/-- Settles O31: outside the fatal ranges the one write is a store, and only HL is written after it. -/
theorem byteStores : Obligations.ByteStores := by
  unfold Obligations.ByteStores
  constructor
  · intro i s a v h ha
    obtain ⟨t, ht, hregs, hst⟩ := byteStoreEffect s a v ha
    exact ⟨t, (exec_of_storeForm h).trans (withWrite_some ht), hregs, hst⟩
  · intro s ha
    obtain ⟨t, ht, stored, regs⟩ := storeAtHl_then_move s s.regs.a (· + 1) ha
    obtain ⟨u, hu, stored', regs'⟩ := storeAtHl_then_move s s.regs.a (· - 1) ha
    exact ⟨t, u, ht, stored, regs, hu, stored', regs'⟩

end Sys2Proof.Machine
end

section
/-! The 16-bit loads and the stack (`41_load16_stack.md`), and the counts of a pair (`43_alu16.md`): a word goes to
memory (R151) or through the stack (R154 to R158), and a 16-bit register takes a word (R150, R152, R221, R222). -/

namespace Sys2Proof.Machine

/-! ### A word pushed and popped (R65, R157, R158) -/

theorem stored_of_withRegs {s t : State} {g : Regs} {a : Word} {v : Byte} (h : Stored { s with regs := g } t a v) :
    Stored s t a v :=
  { h with control := { h.control with } }

theorem storedWord_of_withRegs {s t : State} {g : Regs} {a v : Word} (h : StoredWord { s with regs := g } t a v) :
    StoredWord s t a v :=
  let ⟨others, u, hlo, hhi⟩ := h
  ⟨others, u, stored_of_withRegs hlo, hhi⟩

theorem storedWord_of_bytes {s u t : State} {a v : Word} (hlo : Stored s u a (lo8 v))
    (hhi : Stored u t (a + 1) (hi8 v)) : StoredWord s t a v :=
  ⟨fun x hx hx1 => (hhi.others x hx1).trans (hlo.others x hx), u, hlo, hhi⟩

/-- Where both bytes are outside the fatal ranges, a store of a word goes on from one state, whatever follows it. -/
theorem withWrite16_effect (s : State) {a : Word} (v : Word) (ha : ¬ IsFatal a) (ha1 : ¬ IsFatal (a + 1)) :
    ∃ t, (∀ k, withWrite16 s a v k = k t) ∧ t.regs = s.regs ∧ StoredWord s t a v := by
  obtain ⟨u, hu, uregs, hlo⟩ := byteStoreEffect s a (lo8 v) ha
  obtain ⟨t, ht, tregs, hhi⟩ := byteStoreEffect u (a + 1) (hi8 v) ha1
  exact ⟨t, fun _ => withWrite16_some hu ht, tregs.trans uregs, storedWord_of_bytes hlo hhi⟩

/-- A push is a store of the word after SP is lowered, and the store leaves the lowered SP (R157). -/
theorem withPush16_effect (s : State) (v : Word) (ha : ¬ IsFatal (pushAddress s))
    (ha1 : ¬ IsFatal (pushAddress s + 1)) :
    ∃ t, (∀ k, withPush16 s v k = k t) ∧ t.regs = { s.regs with sp := s.regs.sp - 2 } ∧
      StoredWord s t (pushAddress s) v := by
  obtain ⟨t, push, regs, stored⟩ := withWrite16_effect (s.setSp (pushAddress s)) v ha ha1
  exact ⟨t, push, regs, storedWord_of_withRegs stored⟩

theorem withPop16_some {s : State} {lo hi : Byte} {k : Word → State → Result} (hlo : busRead s s.regs.sp = some lo)
    (hhi : busRead s (s.regs.sp + 1) = some hi) : withPop16 s k = k (word16 hi lo) (s.setSp (s.regs.sp + 2)) :=
  withRead16_some hlo hhi

/-- A stored word reads back byte by byte: the high byte goes to another address than the low one. -/
theorem busRead_of_storedWord {s t : State} {a v : Word} (h : StoredWord s t a v) (ha : ReadsBack a)
    (ha1 : ReadsBack (a + 1)) : busRead t a = some (lo8 v) ∧ busRead t (a + 1) = some (hi8 v) := by
  obtain ⟨-, u, hlo, hhi⟩ := h
  have low_kept : busRead t a = busRead u a := hhi.others a (left_ne_add.mpr (by decide))
  exact ⟨low_kept.trans (busRead_of_stored hlo ha), busRead_of_stored hhi ha1⟩

/-- A pop right after a push answers the word pushed, with every register as before the push (R158). -/
theorem withPop16_after_withPush16 (s : State) (v : Word) (ha : IsRam (pushAddress s))
    (ha1 : IsRam (pushAddress s + 1)) :
    ∃ t u, (∀ k, withPush16 s v k = k t) ∧ (∀ k, withPop16 t k = k v u) ∧ u.regs = s.regs := by
  obtain ⟨t, push, regs, stored⟩ := withPush16_effect s v (not_isFatal_of_isRam ha) (not_isFatal_of_isRam ha1)
  have sp_lowered : t.regs.sp = pushAddress s := congrArg Regs.sp regs
  obtain ⟨readLo, readHi⟩ := busRead_of_storedWord stored (.inl ha) (.inl ha1)
  rw [← sp_lowered] at readLo readHi
  refine ⟨t, t.setSp (t.regs.sp + 2), push, fun k => ?_, ?_⟩
  · rw [withPop16_some readLo readHi, word16_hi8_lo8]
  · simp only [State.setSp, regs, BitVec.sub_add_cancel]

/-! ### The stack instructions -/

/-- Settles O35: both instructions end with the store of their word. -/
theorem wordStores : Obligations.WordStores := by
  unfold Obligations.WordStores
  constructor
  · intro s nn ha ha1
    obtain ⟨t, store, effect⟩ := withWrite16_effect s s.regs.sp ha ha1
    exact ⟨t, store _, effect⟩
  · intro s p ha ha1
    obtain ⟨t, push, effect⟩ := withPush16_effect s (s.regs.getStack p) ha ha1
    exact ⟨t, push _, effect⟩

theorem exec_popRr (p : PopPair) (s : State) : exec (.popRr p) s = withPop16 s fun v t => .next (t.setPop p v) := rfl

theorem exec_popAf (s : State) : exec .popAf s = withPop16 s fun v t => .next (t.setAf v) := rfl

theorem Regs.setPop_word16 (g : Regs) (hi lo : Byte) :
    g.setPop .bc (word16 hi lo) = { g with b := hi, c := lo } ∧
    g.setPop .de (word16 hi lo) = { g with d := hi, e := lo } ∧
    g.setPop .hl (word16 hi lo) = { g with h := hi, l := lo } := by
  simp only [Regs.setPop, Regs.setBc, Regs.setDe, Regs.setHl, hi8_word16, lo8_word16, and_self]

theorem Regs.setAf_word16 (g : Regs) (hi lo : Byte) :
    g.setAf (word16 hi lo) = { g with a := hi, f := lo &&& 0xF0 } := by
  simp only [Regs.setAf, ← lo8_and_highNibble, hi8_word16, lo8_word16]

/-- Settles O36: outside the fatal ranges the two reads answer the bytes, and only registers are written with them. -/
theorem pops : Obligations.Pops := by
  unfold Obligations.Pops
  intro s ha ha1
  obtain ⟨lo, hlo⟩ := exists_busRead s ha
  obtain ⟨hi, hhi⟩ := exists_busRead s ha1
  obtain ⟨bc, de, hl⟩ := (s.setSp (s.regs.sp + 2)).regs.setPop_word16 hi lo
  exact ⟨lo, hi, hlo, hhi,
    ⟨_, (exec_popRr .bc s).trans (withPop16_some hlo hhi), bc, storesNothing_withRegs s _⟩,
    ⟨_, (exec_popRr .de s).trans (withPop16_some hlo hhi), de, storesNothing_withRegs s _⟩,
    ⟨_, (exec_popRr .hl s).trans (withPop16_some hlo hhi), hl, storesNothing_withRegs s _⟩,
    ⟨_, (exec_popAf s).trans (withPop16_some hlo hhi), Regs.setAf_word16 _ hi lo, storesNothing_withRegs s _⟩⟩

/-- Settles O37: the pop answers the word pushed, and its destination alone then differs from before the push. -/
theorem popAfterPushRestores : Obligations.PopAfterPushRestores := by
  unfold Obligations.PopAfterPushRestores
  intro s ha ha1
  constructor
  · obtain ⟨t, u, push, pop, regs⟩ := withPop16_after_withPush16 s s.regs.bc ha ha1
    have de_popped : (u.setPop .de s.regs.bc).regs.de = s.regs.bc := u.regs.setDe_de s.regs.bc
    have bc_kept : u.regs.bc = s.regs.bc := congrArg Regs.bc regs
    have sp_kept : u.regs.sp = s.regs.sp := congrArg Regs.sp regs
    exact ⟨t, u.setPop .de s.regs.bc, push _, (exec_popRr .de t).trans (pop _), de_popped, bc_kept, sp_kept⟩
  · obtain ⟨t, u, push, pop, regs⟩ := withPop16_after_withPush16 s s.regs.af ha ha1
    have a_popped : (u.setAf s.regs.af).regs.a = s.regs.a := hi8_word16 s.regs.a s.regs.f
    have f_popped : (u.setAf s.regs.af).regs.f = s.regs.f &&& 0xF0 :=
      congrArg Regs.f (u.regs.setAf_word16 s.regs.a s.regs.f)
    have sp_kept : u.regs.sp = s.regs.sp := congrArg Regs.sp regs
    exact ⟨t, u.setAf s.regs.af, push _, (exec_popAf t).trans (pop _), a_popped, f_popped, sp_kept⟩

/-! ### A pair written -/

theorem setReg16_effect (s : State) (p : Reg16) (v : Word) :
    (s.setReg16 p v).reg16 p = v ∧ (∀ r, r ≠ p → (s.setReg16 p v).reg16 r = s.reg16 r) ∧
    (s.setReg16 p v).regs.a = s.regs.a ∧ (s.setReg16 p v).regs.f = s.regs.f ∧
    (s.setReg16 p v).regs.pc = s.regs.pc ∧ StoresNothing s (s.setReg16 p v) :=
  ⟨s.setReg16_reg16_same p v, fun _ => s.setReg16_reg16_ne v, s.setReg16_a p v, s.setReg16_f p v, s.setReg16_pc p v,
    storesNothing_withRegs s _⟩

/-- Settles O32: each next state is `setReg16` of the destination. -/
theorem pairWrites : Obligations.PairWrites := by
  unfold Obligations.PairWrites
  intro s p nn
  exact ⟨⟨_, rfl, setReg16_effect s p nn⟩, ⟨_, rfl, setReg16_effect s .sp s.hl⟩,
    ⟨_, rfl, setReg16_effect s p (s.reg16 p + 1)⟩, ⟨_, rfl, setReg16_effect s p (s.reg16 p - 1)⟩⟩

end Sys2Proof.Machine
end

section
/-! The carry and the borrow of the 8-bit helpers (`42_alu8.md` section 1, R170, R171): in integers, and as the bits of
the nine-bit sum and difference. -/

namespace Sys2Proof.Machine

/-! ### A difference, bit by bit -/

section
variable {w i : Nat} (x y : BitVec w) (c : Bool)

/-- Subtracting is adding the complement, the borrow complemented with it. -/
theorem sub_sub_ofBool :
    x - y - (BitVec.ofBool c).setWidth w = x + ~~~y + (BitVec.ofBool !c).setWidth w := by
  have not_add_one : x - y = x + ~~~y + 1#w := by
    rw [BitVec.sub_eq_add_neg, BitVec.neg_eq_not_add, BitVec.add_assoc]
  have one : (BitVec.ofBool true).setWidth w = 1#w := BitVec.eq_of_toNat_eq (by simp)
  have zero : (BitVec.ofBool false).setWidth w = 0#w := BitVec.setWidth_zero w 1
  cases c with
  | false => rw [Bool.not_false, zero, one, not_add_one, BitVec.sub_zero]
  | true => rw [Bool.not_true, zero, one, not_add_one, BitVec.add_sub_cancel, BitVec.add_zero]

/-- The carry into bit i of a sum with a complement is the absence of a borrow into bit i. -/
theorem carry_not (hi : i ≤ w) :
    BitVec.carry i x (~~~y) (!c) = !decide (x.toNat % 2 ^ i < y.toNat % 2 ^ i + c.toNat) := by
  have complement : (~~~y).toNat % 2 ^ i = 2 ^ i - 1 - y.toNat % 2 ^ i := by
    rw [← BitVec.toNat_setWidth, ← BitVec.toNat_setWidth, BitVec.setWidth_not hi, BitVec.toNat_not]
  have := Nat.mod_lt y.toNat (Nat.two_pow_pos i)
  rw [BitVec.carry, complement, ← decide_not, decide_eq_decide]
  cases c <;> simp only [Bool.not_false, Bool.not_true, Bool.toNat_true, Bool.toNat_false] <;> omega

/-- `BitVec.getLsbD_add_add_bool` for a difference: the last bit is the borrow into bit i. -/
theorem getLsbD_sub_sub_bool (hi : i < w) : (x - y - (BitVec.ofBool c).setWidth w).getLsbD i =
    (x.getLsbD i ^^ (y.getLsbD i ^^ decide (x.toNat % 2 ^ i < y.toNat % 2 ^ i + c.toNat))) := by
  rw [sub_sub_ofBool, BitVec.getLsbD_add_add_bool hi, carry_not x y c hi.le, BitVec.getLsbD_not]
  simp [hi]

theorem setWidth_sub_sub_bool {v : Nat} (hv : v ≤ w) : (x - y - (BitVec.ofBool c).setWidth w).setWidth v =
    x.setWidth v - y.setWidth v - (BitVec.ofBool c).setWidth v := by
  rw [sub_sub_ofBool, sub_sub_ofBool, BitVec.setWidth_add _ _ hv, BitVec.setWidth_add _ _ hv, BitVec.setWidth_not hv,
    BitVec.setWidth_setWidth_of_le _ hv]

end

/-! ### The helpers in words -/

section
variable (a b : Byte) (cin : Bool)

theorem add8_res : (add8 a b cin).res = a + b + (BitVec.ofBool cin).setWidth 8 := by
  apply BitVec.eq_of_toNat_eq
  cases cin <;> simp [add8, Nat.add_assoc]

theorem sub8_res : (sub8 a b cin).res = a - b - (BitVec.ofBool cin).setWidth 8 := by
  cases cin <;> simp [sub8, Int.sub_eq_add_neg, BitVec.ofInt_add, BitVec.ofInt_neg, BitVec.sub_eq_add_neg]

theorem sub8_res_eq_ofNat : (sub8 a b cin).res = BitVec.ofNat 8 (a.toNat + 512 - b.toNat - cin.toNat) := by
  have := cin.toNat_le
  rw [sub8_res]
  apply BitVec.eq_of_toNat_eq
  simp only [BitVec.toNat_sub, BitVec.toNat_setWidth, BitVec.toNat_ofBool, BitVec.toNat_ofNat]
  omega

end

/-! ### The helpers against bit analysis -/

/-- A sum or difference bit, xored with both operand bits, is the carry or borrow into that bit. -/
theorem xor_xor_cancel (p q r : Bool) : ((p ^^ q) ^^ (p ^^ (q ^^ r))) = r := by revert p q r; decide

theorem toNat_nineBits_mod (a : Byte) : (a.setWidth 9).toNat % 2 ^ 8 = a.toNat := by
  rw [BitVec.toNat_setWidth_of_le (by decide), Nat.mod_eq_of_lt a.isLt]

theorem nineBits_getLsbD_eight (a : Byte) : (a.setWidth 9).getLsbD 8 = false := by
  rw [BitVec.getLsbD_setWidth, BitVec.getLsbD_of_ge a 8 (le_refl 8), Bool.and_false]

/-- Settles O38: the bits of the sum are the operands' bits and the carries, by `BitVec.getLsbD_add_add_bool`. -/
theorem addHelperMatchesBits : Obligations.AddHelperMatchesBits := by
  unfold Obligations.AddHelperMatchesBits
  refine ⟨fun a b cin => ?_, by decide, by decide⟩
  intro r sum
  have res : r.res = sum.extractLsb' 0 8 := by
    rw [← BitVec.setWidth_eq_extractLsb' (by decide), BitVec.setWidth_add _ _ (by decide),
      BitVec.setWidth_add _ _ (by decide)]
    simpa using add8_res a b cin
  have carry : r.c = sum.getLsbD 8 := by
    rw [BitVec.getLsbD_add_add_bool (by decide), nineBits_getLsbD_eight, nineBits_getLsbD_eight, Bool.false_xor,
      Bool.false_xor, BitVec.carry, toNat_nineBits_mod, toNat_nineBits_mod]
    rfl
  have half : r.h = (a ^^^ b ^^^ r.res).getLsbD 4 := by
    rw [BitVec.getLsbD_xor, BitVec.getLsbD_xor, add8_res, BitVec.getLsbD_add_add_bool (by decide), xor_xor_cancel]
    rfl
  have nibbles : r.h = decide ((a.extractLsb' 0 4).toNat + (b.extractLsb' 0 4).toNat + cin.toNat > 0xF) := by
    rw [BitVec.extractLsb'_toNat, BitVec.extractLsb'_toNat]
    rfl
  exact ⟨BitVec.toNat_ofNat _ 8, nibbles, rfl, res, carry, half⟩

/-- Settles O39: the bits of the difference are the operands' bits and the borrows, by `getLsbD_sub_sub_bool`. -/
theorem subHelperMatchesBits : Obligations.SubHelperMatchesBits := by
  unfold Obligations.SubHelperMatchesBits
  refine ⟨fun a b cin => ?_, by decide, by decide, by decide, by decide⟩
  intro r diff
  have res : r.res = diff.extractLsb' 0 8 := by
    rw [← BitVec.setWidth_eq_extractLsb' (by decide), setWidth_sub_sub_bool _ _ _ (by decide)]
    simpa using sub8_res a b cin
  have borrow : r.c = diff.getLsbD 8 := by
    rw [getLsbD_sub_sub_bool _ _ _ (by decide), nineBits_getLsbD_eight, nineBits_getLsbD_eight, Bool.false_xor,
      Bool.false_xor, toNat_nineBits_mod, toNat_nineBits_mod]
    rfl
  have half : r.h = (a ^^^ b ^^^ r.res).getLsbD 4 := by
    rw [BitVec.getLsbD_xor, BitVec.getLsbD_xor, sub8_res, getLsbD_sub_sub_bool _ _ _ (by decide), xor_xor_cancel]
    rfl
  have nibbles : r.h = decide ((a.extractLsb' 0 4).toNat < (b.extractLsb' 0 4).toNat + cin.toNat) := by
    rw [BitVec.extractLsb'_toNat, BitVec.extractLsb'_toNat]
    rfl
  have integer : (r.res.toNat : Int) = ((a.toNat : Int) - b.toNat - cin.toNat) % 256 := by
    rw [show r.res = BitVec.ofInt 8 ((a.toNat : Int) - b.toNat - cin.toNat) from rfl, BitVec.toNat_ofInt,
      Int.toNat_of_nonneg (Int.emod_nonneg _ (by decide))]
    rfl
  exact ⟨integer, nibbles, rfl, res, borrow, half⟩

end Sys2Proof.Machine
end

section
/-! The accumulator group (`42_alu8.md` section 2): ADD, ADC, SUB, SBC, CP, AND, XOR and OR with a register, the byte at
HL or an immediate (R172 to R195). -/

namespace Sys2Proof.Machine

/-! ### The flags written -/

section
variable {s t : State} (z n h c : Bool)

theorem flagsAre_setFlags (hf : t.regs.f = s.regs.f) : FlagsAre s (t.setFlags z n h c) z n h c where
  z := t.setFlags_fZ z n h c
  n := t.setFlags_fN z n h c
  h := t.setFlags_fH z n h c
  c := t.setFlags_fC z n h c
  low := (packFlags_low t.regs.f z n h c).trans (congrArg (BitVec.extractLsb' 0 4) hf)

theorem onlyRegAndFlags_setFlags {dst : Reg8} (ht : OnlyReg dst s t) : OnlyRegAndFlags dst s (t.setFlags z n h c) where
  others r hr := (t.setFlags_reg z n h c r).trans (ht.others r hr)
  sp := ht.sp
  pc := ht.pc

theorem onlyFlags_setFlags (ht : t.regs = s.regs) : OnlyFlags s (t.setFlags z n h c) where
  regs r := (t.setFlags_reg z n h c r).trans (congrArg (Regs.get · r) ht)
  sp := (t.setFlags_sp z n h c).trans (congrArg Regs.sp ht)
  pc := (t.setFlags_pc z n h c).trans (congrArg Regs.pc ht)

end

/-- A register and the four flags written, and nothing else. -/
theorem setReg_setFlags_effect (s : State) (dst : Reg8) (v : Byte) (z n h c : Bool) :
    ((s.setReg dst v).setFlags z n h c).reg dst = v ∧ FlagsAre s ((s.setReg dst v).setFlags z n h c) z n h c ∧
    OnlyRegAndFlags dst s ((s.setReg dst v).setFlags z n h c) ∧
    StoresNothing s ((s.setReg dst v).setFlags z n h c) :=
  ⟨((s.setReg dst v).setFlags_reg z n h c dst).trans (s.setReg_reg_same dst v),
    flagsAre_setFlags z n h c (s.setReg_f dst v), onlyRegAndFlags_setFlags z n h c (onlyReg_setReg s dst v),
    storesNothing_withRegs s _⟩

/-! ### One meaning for the three operand forms -/

theorem exec_of_aluForm {i : Instr} {s : State} {k : AluOp} {v : Byte} (hi : aluForm i s = some (k, v)) :
    exec i s = aluValue k v s := by
  cases i with
  | addR | addD8 | adcR | adcD8 | subR | subD8 | sbcR | sbcD8 | andR | andD8 | xorR | xorD8 | orR | orD8 | cpR | cpD8 =>
    cases hi
    rfl
  | addHl | adcHl | subHl | sbcHl | andHl | xorHl | orHl | cpHl =>
    obtain ⟨w, hw, hkv⟩ := Option.map_eq_some_iff.mp hi
    cases hkv
    exact withRead_some hw
  | _ => cases hi

/-- What an instruction of the group leaves, from the value of its operation. -/
theorem exec_aluForm_effect {i : Instr} {s : State} {k : AluOp} {v a : Byte} {z n h c : Bool}
    (hi : aluForm i s = some (k, v)) (hr : alu k s.regs.a v s.fC = ⟨a, z, n, h, c⟩) :
    ∃ t, exec i s = .next t ∧ t.regs.a = a ∧ FlagsAre s t z n h c ∧ OnlyRegAndFlags .a s t ∧ StoresNothing s t := by
  refine ⟨accumulate k v s, exec_of_aluForm hi, ?_⟩
  simp only [accumulate, hr]
  exact setReg_setFlags_effect s .a a z n h c

/-! ### The operations in integers -/

theorem ofNat_beq_zero (n : Nat) : (BitVec.ofNat 8 n == 0) = decide (n % 256 = 0) := by
  rw [beq_eq_decide, decide_eq_decide, ← BitVec.toNat_inj]
  rfl

section
variable (a v : Byte) (c : Bool)

theorem alu_adc : alu .adc a v c =
    ⟨BitVec.ofNat 8 (a.toNat + v.toNat + c.toNat), decide ((a.toNat + v.toNat + c.toNat) % 256 = 0), false,
      decide (a.toNat % 16 + v.toNat % 16 + c.toNat > 15), decide (a.toNat + v.toNat + c.toNat > 255)⟩ := by
  rw [← ofNat_beq_zero]
  rfl

theorem alu_sbc : alu .sbc a v c =
    ⟨BitVec.ofNat 8 (a.toNat + 512 - v.toNat - c.toNat), decide ((a.toNat + 512 - v.toNat - c.toNat) % 256 = 0), true,
      decide (a.toNat % 16 < v.toNat % 16 + c.toNat), decide (a.toNat < v.toNat + c.toNat)⟩ := by
  rw [← ofNat_beq_zero, ← sub8_res_eq_ofNat]
  rfl

end

/-- Settles O40: ADD is ADC with no carry in. -/
theorem additions : Obligations.Additions := by
  unfold Obligations.Additions
  intro i s k v cin hi hk
  obtain ⟨c, rfl, hadc⟩ : ∃ c : Bool, cin = c.toNat ∧ alu k s.regs.a v s.fC = alu .adc s.regs.a v c := by
    rcases hk with ⟨rfl, rfl⟩ | ⟨rfl, rfl⟩
    · exact ⟨false, rfl, rfl⟩
    · exact ⟨s.fC, rfl, rfl⟩
  exact exec_aluForm_effect hi (hadc.trans (alu_adc s.regs.a v c))

/-- Settles O41: SUB is SBC with no borrow in, and CP is SUB with A kept. -/
theorem subtractions : Obligations.Subtractions := by
  unfold Obligations.Subtractions
  intro i s k v cin hi hk
  obtain ⟨c, rfl, hsbc⟩ : ∃ c : Bool, cin = c.toNat ∧ alu k s.regs.a v s.fC =
      { alu .sbc s.regs.a v c with a := if k = .cp then s.regs.a else (alu .sbc s.regs.a v c).a } := by
    rcases hk with ⟨rfl | rfl, rfl⟩ | ⟨rfl, rfl⟩
    · exact ⟨false, rfl, rfl⟩
    · exact ⟨false, rfl, rfl⟩
    · exact ⟨s.fC, rfl, rfl⟩
  rw [alu_sbc] at hsbc
  exact exec_aluForm_effect hi hsbc

/-- The three bitwise operations: C cleared, H set by AND alone. -/
theorem alu_logic {k : AluOp} (hk : k = .and ∨ k = .xor ∨ k = .or) (a v : Byte) (c : Bool) :
    ∃ r : Byte, alu k a v c = ⟨r, decide (r = 0), false, decide (k = .and), false⟩ ∧ ∀ j, r.getLsbD j =
      if k = .and then a.getLsbD j && v.getLsbD j
      else if k = .xor then xor (a.getLsbD j) (v.getLsbD j)
      else a.getLsbD j || v.getLsbD j := by
  rcases hk with rfl | rfl | rfl
  · exact ⟨a &&& v, rfl, fun _ => BitVec.getLsbD_and⟩
  · exact ⟨a ^^^ v, rfl, fun _ => BitVec.getLsbD_xor⟩
  · exact ⟨a ||| v, rfl, fun _ => BitVec.getLsbD_or⟩

/-- Settles O42: the operation of each bit is `alu_logic`, and only A and F are written. -/
theorem logicOperations : Obligations.LogicOperations := by
  unfold Obligations.LogicOperations
  intro i s k v hi hk
  obtain ⟨r, hr, bits⟩ := alu_logic hk s.regs.a v s.fC
  obtain ⟨t, ht, rfl, effect⟩ := exec_aluForm_effect hi hr
  exact ⟨t, ht, bits, effect⟩

end Sys2Proof.Machine
end

section
/-! Increment, decrement (`42_alu8.md` section 3, R196 to R199) and the instructions on the flags (R201 to R203). -/

namespace Sys2Proof.Machine

/-! ### The flags of a count (R196, R198) -/

theorem lowNibble_beq (v : Byte) (n : BitVec 4) : (v.extractLsb' 0 4 == n) = decide (v.toNat % 16 = n.toNat) := by
  rw [beq_eq_decide, decide_eq_decide, ← BitVec.toNat_inj, BitVec.extractLsb'_toNat]
  rfl

theorem incFlags_eq (v : Byte) (s : State) :
    incFlags v s = s.setFlags (decide (v = 0xFF)) false (decide (v.toNat % 16 = 15)) s.fC := by
  have zero : v + 1 = 0 ↔ v = 0xFF := by bv_omega
  rw [incFlags, incHalf, lowNibble_beq, beq_eq_decide, decide_eq_decide.mpr zero]
  rfl

theorem decFlags_eq (v : Byte) (s : State) :
    decFlags v s = s.setFlags (decide (v = 0x01)) true (decide (v.toNat % 16 = 0)) s.fC := by
  have zero : v - 1 = 0 ↔ v = 0x01 := by bv_omega
  rw [decFlags, decHalf, lowNibble_beq, beq_eq_decide, decide_eq_decide.mpr zero]
  rfl

theorem State.setReg_fC (s : State) (r : Reg8) (v : Byte) : (s.setReg r v).fC = s.fC :=
  congrArg (BitVec.getLsbD · 4) (s.setReg_f r v)

/-! ### A register or the byte at HL counted -/

theorem exec_incR (dst : Reg8) (s : State) : exec (.incR dst) s =
    .next ((s.setReg dst (s.reg dst + 1)).setFlags (decide (s.reg dst = 0xFF)) false
      (decide ((s.reg dst).toNat % 16 = 15)) s.fC) := by
  rw [← s.setReg_fC dst (s.reg dst + 1), ← incFlags_eq]
  rfl

theorem exec_decR (dst : Reg8) (s : State) : exec (.decR dst) s =
    .next ((s.setReg dst (s.reg dst - 1)).setFlags (decide (s.reg dst = 0x01)) true
      (decide ((s.reg dst).toNat % 16 = 0)) s.fC) := by
  rw [← s.setReg_fC dst (s.reg dst - 1), ← decFlags_eq]
  rfl

/-- A store at HL after which Z, N and H are written: the store keeps F, so C is the old one (R197, R199). -/
theorem storeAtHl_then_setFlags (s : State) (v : Byte) (z n h : Bool) (ha : ¬ IsFatal s.hl) :
    ∃ t, (withWrite s s.hl v fun u => .next (u.setFlags z n h u.fC)) = .next t ∧ Stored s t s.hl v ∧
      FlagsAre s t z n h s.fC ∧ OnlyFlags s t := by
  obtain ⟨u, hu, regs, stored⟩ := byteStoreEffect s s.hl v ha
  have f_kept : u.regs.f = s.regs.f := congrArg Regs.f regs
  have c_kept : u.fC = s.fC := congrArg (BitVec.getLsbD · 4) f_kept
  exact ⟨u.setFlags z n h s.fC, (withWrite_some hu).trans (by rw [c_kept]), stored_withRegs stored _,
    flagsAre_setFlags z n h s.fC f_kept, onlyFlags_setFlags z n h s.fC regs⟩

/-- Settles O43: one write of the operand, then the flags of its old byte, with the C there was. -/
theorem incrementsAndDecrements : Obligations.IncrementsAndDecrements := by
  unfold Obligations.IncrementsAndDecrements
  constructor
  · intro s dst
    exact ⟨⟨_, exec_incR dst s, setReg_setFlags_effect s dst _ _ _ _ _⟩,
      _, exec_decR dst s, setReg_setFlags_effect s dst _ _ _ _ _⟩
  · intro s ha
    obtain ⟨v, hv⟩ := exists_busRead s ha
    obtain ⟨t, ht, inc⟩ := storeAtHl_then_setFlags s (v + 1) (decide (v = 0xFF)) false (decide (v.toNat % 16 = 15)) ha
    obtain ⟨u, hu, dec⟩ := storeAtHl_then_setFlags s (v - 1) (decide (v = 0x01)) true (decide (v.toNat % 16 = 0)) ha
    have hinc : exec .incHl s = .next t := (withRead_some hv).trans (by simp only [incFlags_eq, ht])
    have hdec : exec .decHl s = .next u := (withRead_some hv).trans (by simp only [decFlags_eq, hu])
    exact ⟨v, hv, ⟨t, hinc, inc⟩, u, hdec, dec⟩

/-! ### The flags and the complement of A -/

/-- Settles O46: CPL writes A and the flags, SCF and CCF the flags alone. -/
theorem flagInstructions : Obligations.FlagInstructions := by
  unfold Obligations.FlagInstructions
  intro s
  refine ⟨?_, ?_, ?_⟩
  · obtain ⟨complement, effect⟩ := setReg_setFlags_effect s .a (~~~s.regs.a) s.fZ true true s.fC
    refine ⟨_, rfl, fun j hj => ?_, effect⟩
    have bit : (~~~s.regs.a).getLsbD j = !s.regs.a.getLsbD j := by
      rw [BitVec.getLsbD_not, decide_eq_true hj, Bool.true_and]
    exact (congrArg (BitVec.getLsbD · j) complement).trans bit
  · exact ⟨_, rfl, flagsAre_setFlags _ _ _ _ rfl, onlyFlags_setFlags _ _ _ _ rfl, storesNothing_withRegs s _⟩
  · exact ⟨_, rfl, flagsAre_setFlags _ _ _ _ rfl, onlyFlags_setFlags _ _ _ _ rfl, storesNothing_withRegs s _⟩

end Sys2Proof.Machine
end

section
/-! DAA (`42_alu8.md` R200): the correction as a number, and the packed BCD it leaves after an addition or a subtraction
(`70_reset_and_hazards.md` R368). -/

namespace Sys2Proof.Machine

/-! ### The correction -/

section
variable (a : Byte) (n h c : Bool)

theorem daaCorrection_toNat : (daaCorrection a n h c).toNat =
    (if h = true ∨ (n = false ∧ a.toNat % 16 > 9) then 0x06 else 0) +
    (if c = true ∨ (n = false ∧ a.toNat > 0x99) then 0x60 else 0) := by
  simp only [daaCorrection, Bool.or_eq_true, Bool.and_eq_true, Bool.not_eq_true', decide_eq_true_eq]
  split_ifs <;> rfl

theorem daaResult_eq_ofNat : daaResult a n h c = BitVec.ofNat 8
    (if n = true then a.toNat + 256 - (daaCorrection a n h c).toNat else a.toNat + (daaCorrection a n h c).toNat) := by
  unfold daaResult
  split <;> bv_omega

theorem daaCarry_eq_true_iff : daaCarry a n c = true ↔ c = true ∨ (n = false ∧ a.toNat > 0x99) := by
  simp [daaCarry]

end

theorem exec_daa_effect (s : State) :
    ∃ t, exec .daa s = .next t ∧ t.regs.a = daaResult s.regs.a s.fN s.fH s.fC ∧
      FlagsAre s t (daaResult s.regs.a s.fN s.fH s.fC == 0) s.fN false (daaCarry s.regs.a s.fN s.fC) ∧
      OnlyRegAndFlags .a s t ∧ StoresNothing s t :=
  ⟨_, rfl, setReg_setFlags_effect s .a _ _ _ _ _⟩

/-- Settles O44: the correction is the number of `daaCorrection_toNat`. -/
theorem decimalAdjust : Obligations.DecimalAdjust := by
  unfold Obligations.DecimalAdjust
  intro s low high
  obtain ⟨t, ht, res, flags, frame⟩ := exec_daa_effect s
  have corr := daaCorrection_toNat s.regs.a s.fN s.fH s.fC
  have zero : t.fZ = true ↔ t.regs.a = 0 := by rw [flags.z, ← res, beq_iff_eq]
  have carry : t.fC = true ↔ high := by rw [flags.c, daaCarry_eq_true_iff]
  refine ⟨t, (daaCorrection s.regs.a s.fN s.fH s.fC).toNat, ht, fun hl hh => ?_, fun hl hh => ?_, fun hl hh => ?_,
    fun hl hh => ?_, res.trans (daaResult_eq_ofNat _ _ _ _), zero, flags.n, flags.h, carry, flags.low, frame⟩
  · rw [corr, if_pos hl, if_pos hh]
  · rw [corr, if_pos hl, if_neg hh]
  · rw [corr, if_neg hl, if_pos hh]
  · rw [corr, if_neg hl, if_neg hh]

/-! ### Packed BCD -/

theorem bcd_toNat {n : Nat} (hn : n < 100) : (bcd n).toNat = 16 * (n / 10) + n % 10 := by
  rw [bcd, BitVec.toNat_ofNat]
  omega

theorem bcd_lowNibble {n : Nat} (hn : n < 100) : (bcd n).toNat % 16 = n % 10 := by
  rw [bcd_toNat hn]
  omega

theorem bcd_bounds {n : Nat} (hn : n < 100) : (bcd n).toNat % 16 ≤ 9 ∧ (bcd n).toNat ≤ 0x99 := by
  rw [bcd_toNat hn]
  omega

/-- The decimal sum of two numbers below 100, digit by digit: `k` is the carry out of the low digit, `m` the carry out
of the high one. Read backwards, from `z` and `y` to `x`, it is the decimal difference with its borrows. -/
structure DigitSum (x y z k m : Nat) : Prop where
  x_lt : x < 100
  y_lt : y < 100
  z_lt : z < 100
  low : x % 10 + y % 10 = 10 * k + z % 10
  high : x / 10 + y / 10 + k = 10 * m + z / 10

theorem digitSum_add {x y : Nat} (hx : x < 100) (hy : y < 100) :
    DigitSum x y ((x + y) % 100) ((x % 10 + y % 10) / 10) ((x + y) / 100) := by
  constructor <;> omega

theorem exists_digitSum_sub {x y : Nat} (hx : x < 100) (hy : y < 100) :
    ∃ k m, DigitSum ((x + 100 - y) % 100) y x k m := by
  have sum := digitSum_add (Nat.mod_lt (x + 100 - y) (by decide)) hy
  have back : ((x + 100 - y) % 100 + y) % 100 = x := by omega
  rw [back] at sum
  exact ⟨_, _, sum⟩

theorem daaCorrection_of_carries {a : Byte} {n h c : Bool} {k m : Nat} (hk : k = 0 ∨ k = 1) (hm : m = 0 ∨ m = 1)
    (low : (h = true ∨ (n = false ∧ a.toNat % 16 > 9)) ↔ k = 1)
    (high : (c = true ∨ (n = false ∧ a.toNat > 0x99)) ↔ m = 1) :
    (daaCorrection a n h c).toNat = 0x06 * k + 0x60 * m := by
  rw [daaCorrection_toNat, if_congr low rfl rfl, if_congr high rfl rfl]
  split_ifs <;> omega

theorem daaCarry_of_iff {a : Byte} {n c : Bool} {p : Prop} [Decidable p]
    (high : (c = true ∨ (n = false ∧ a.toNat > 0x99)) ↔ p) : daaCarry a n c = decide p := by
  rw [Bool.eq_iff_iff, daaCarry_eq_true_iff, decide_eq_true_iff]
  exact high

namespace DigitSum

variable {x y z k m : Nat} (d : DigitSum x y z k m)

include d

theorem carries : (k = 0 ∨ k = 1) ∧ (m = 0 ∨ m = 1) := by
  obtain ⟨hx, hy, -, low, high⟩ := d
  omega

theorem total : x + y = 100 * m + z := by
  obtain ⟨-, -, -, low, high⟩ := d
  omega

theorem carry_iff : m = 1 ↔ x + y ≥ 100 := by
  have := d.total
  have := d.z_lt
  obtain ⟨-, hm⟩ := d.carries
  omega

theorem borrow_iff : m = 1 ↔ z < y := by
  have := d.total
  have := d.x_lt
  obtain ⟨-, hm⟩ := d.carries
  omega

/-- In binary the sum of two packed BCD bytes is short by six for every digit a carry left. -/
theorem bcd_add : (bcd x).toNat + (bcd y).toNat + 6 * k = 160 * m + (bcd z).toNat := by
  rw [bcd_toNat d.x_lt, bcd_toNat d.y_lt, bcd_toNat d.z_lt]
  obtain ⟨-, -, -, low, high⟩ := d
  omega

theorem bcd_add_lowNibble : (bcd x).toNat % 16 + (bcd y).toNat % 16 = 10 * k + (bcd z).toNat % 16 := by
  rw [bcd_lowNibble d.x_lt, bcd_lowNibble d.y_lt, bcd_lowNibble d.z_lt]
  exact d.low

/-- DAA after ADD: the correction is six for every digit a carry left. -/
theorem daa_add8 :
    let r := add8 (bcd x) (bcd y) false
    daaResult r.res false r.h r.c = bcd z ∧ daaCarry r.res false r.c = decide (x + y ≥ 100) := by
  intro r
  obtain ⟨hk, hm⟩ := d.carries
  obtain ⟨zLow, zHigh⟩ := bcd_bounds d.z_lt
  have sum := d.bcd_add
  have res : r.res.toNat = ((bcd x).toNat + (bcd y).toNat) % 256 := BitVec.toNat_ofNat _ _
  have sixteen : 16 ∣ 256 := by decide
  have low : (r.h = true ∨ (false = false ∧ r.res.toNat % 16 > 9)) ↔ k = 1 := by
    have half : r.h = true ↔ (bcd x).toNat % 16 + (bcd y).toNat % 16 > 15 := decide_eq_true_iff
    simp only [half, d.bcd_add_lowNibble, res, Nat.mod_mod_of_dvd _ sixteen, true_and]
    omega
  have high : (r.c = true ∨ (false = false ∧ r.res.toNat > 0x99)) ↔ m = 1 := by
    have carry : r.c = true ↔ (bcd x).toNat + (bcd y).toNat > 255 := decide_eq_true_iff
    simp only [carry, res, true_and]
    omega
  refine ⟨BitVec.eq_of_toNat_eq ?_, daaCarry_of_iff (high.trans d.carry_iff)⟩
  rw [daaResult_eq_ofNat, daaCorrection_of_carries hk hm low high, BitVec.toNat_ofNat, if_neg (by decide), res]
  omega

/-- DAA after SUB: the correction is six for every digit that borrowed. -/
theorem daa_sub8 :
    let r := sub8 (bcd z) (bcd y) false
    daaResult r.res true r.h r.c = bcd x ∧ daaCarry r.res true r.c = decide (z < y) := by
  intro r
  obtain ⟨hk, hm⟩ := d.carries
  obtain ⟨xLow, xHigh⟩ := bcd_bounds d.x_lt
  have half : r.h = true ↔ k = 1 := by
    have sum := d.bcd_add_lowNibble
    simp only [r, sub8, Bool.toNat_false, decide_eq_true_eq]
    omega
  have sum := d.bcd_add
  have carry : r.c = true ↔ m = 1 := by
    simp only [r, sub8, Bool.toNat_false, decide_eq_true_eq]
    omega
  have low : (r.h = true ∨ (true = false ∧ r.res.toNat % 16 > 9)) ↔ k = 1 := by simp [half]
  have high : (r.c = true ∨ (true = false ∧ r.res.toNat > 0x99)) ↔ m = 1 := by simp [carry]
  refine ⟨BitVec.eq_of_toNat_eq ?_, daaCarry_of_iff (high.trans d.borrow_iff)⟩
  have res : r.res.toNat = ((bcd z).toNat + 512 - (bcd y).toNat) % 256 := by
    rw [sub8_res_eq_ofNat]
    exact BitVec.toNat_ofNat _ _
  rw [daaResult_eq_ofNat, daaCorrection_of_carries hk hm low high, BitVec.toNat_ofNat, if_pos rfl, res]
  omega

end DigitSum

/-- DAA right after an accumulator operation adjusts its result by its flags. -/
theorem exec_daa_after_alu {i : Instr} {s : State} {k : AluOp} {v a : Byte} {z n h c : Bool}
    (hi : aluForm i s = some (k, v)) (hr : alu k s.regs.a v s.fC = ⟨a, z, n, h, c⟩) :
    ∃ t u, exec i s = .next t ∧ exec .daa t = .next u ∧ u.regs.a = daaResult a n h c ∧ u.fC = daaCarry a n c := by
  obtain ⟨t, ht, rfl, ⟨-, rfl, rfl, rfl, -⟩, -⟩ := exec_aluForm_effect hi hr
  obtain ⟨u, hu, res, flags, -⟩ := exec_daa_effect t
  exact ⟨t, u, ht, hu, res, flags.c⟩

/-- Settles O45: DAA's correction is six for every digit that carried or borrowed, which is what the binary operation
misses by (`DigitSum.bcd_add`). -/
theorem decimalAdjustIsBcd : Obligations.DecimalAdjustIsBcd := by
  unfold Obligations.DecimalAdjustIsBcd
  intro s x y hx hy ha
  constructor
  · obtain ⟨res, carry⟩ := (digitSum_add hx hy).daa_add8
    rw [← ha] at res carry
    rw [← res, ← carry]
    exact exec_daa_after_alu rfl rfl
  · obtain ⟨k, m, d⟩ := exists_digitSum_sub hx hy
    obtain ⟨res, carry⟩ := d.daa_sub8
    rw [← ha] at res carry
    rw [← res, ← carry]
    exact exec_daa_after_alu rfl rfl

end Sys2Proof.Machine
end

section
/-! The 16-bit sums (`43_alu16.md`): SP plus a signed offset, to SP or to HL (R153, R220, R224), and a pair added to HL
(R223). -/

namespace Sys2Proof.Machine

/-! ### The sums in integers -/

theorem addSp_res (sp : Word) (e : Byte) : (addSp sp e).res = BitVec.ofInt 16 ((sp.toNat : Int) + e.toInt) := by
  rw [BitVec.ofInt_add, BitVec.ofInt_natCast, BitVec.ofNat_toNat, BitVec.setWidth_eq]
  rfl

theorem add16_res (x y : Word) : (add16 x y).res = x + y := by
  apply BitVec.eq_of_toNat_eq
  rw [BitVec.toNat_add]
  exact BitVec.toNat_ofNat _ _

/-! ### SP or HL written together with the flags -/

theorem State.setHl_reg_ne {q : Reg8} (s : State) (v : Word) (hh : q ≠ .h) (hl : q ≠ .l) :
    (s.setHl v).reg q = s.reg q := by
  cases q with
  | h => exact absurd rfl hh
  | l => exact absurd rfl hl
  | b | c | d | e | a => rfl

section
variable (s : State) (v : Word) (z n h c : Bool)

theorem setSp_setFlags_effect :
    ((s.setSp v).setFlags z n h c).regs.sp = v ∧ FlagsAre s ((s.setSp v).setFlags z n h c) z n h c ∧
    (∀ r, ((s.setSp v).setFlags z n h c).reg r = s.reg r) ∧
    ((s.setSp v).setFlags z n h c).regs.pc = s.regs.pc ∧ StoresNothing s ((s.setSp v).setFlags z n h c) :=
  ⟨rfl, flagsAre_setFlags z n h c (s.setSp_f v),
    fun r => ((s.setSp v).setFlags_reg z n h c r).trans (s.setSp_reg v r), rfl, storesNothing_withRegs s _⟩

theorem setHl_setFlags_effect :
    ((s.setHl v).setFlags z n h c).hl = v ∧ FlagsAre s ((s.setHl v).setFlags z n h c) z n h c ∧
    (∀ r, r ≠ .h → r ≠ .l → ((s.setHl v).setFlags z n h c).reg r = s.reg r) ∧
    ((s.setHl v).setFlags z n h c).regs.sp = s.regs.sp ∧ ((s.setHl v).setFlags z n h c).regs.pc = s.regs.pc ∧
    StoresNothing s ((s.setHl v).setFlags z n h c) :=
  ⟨s.setHl_hl v, flagsAre_setFlags z n h c (s.setHl_f v),
    fun r hh hl => ((s.setHl v).setFlags_reg z n h c r).trans (s.setHl_reg_ne v hh hl), rfl, rfl,
    storesNothing_withRegs s _⟩

end

/-- Settles O33: the two forms write one and the same sum, to SP and to HL, with the same flags. -/
theorem stackPointerSums : Obligations.StackPointerSums := by
  unfold Obligations.StackPointerSums
  intro s e sum h c
  have res : (addSp s.regs.sp e).res = sum := addSp_res s.regs.sp e
  rw [← res]
  exact ⟨⟨_, rfl, setSp_setFlags_effect s _ false false h c⟩, _, rfl, setHl_setFlags_effect s _ false false h c⟩

/-- Settles O34: HL takes the sum of `add16`, whose half-carry and carry are those of bits 11 and 15. -/
theorem addsToHl : Obligations.AddsToHl := by
  unfold Obligations.AddsToHl
  intro s p
  rw [← add16_res s.hl (s.reg16 p)]
  exact ⟨_, rfl, setHl_setFlags_effect s _ s.fZ false _ _⟩

end Sys2Proof.Machine
end

section
/-! Rotates, shifts, SWAP and the bit instructions (`44_rotate_shift_bit.md`): the accumulator rotates (R231 to R234),
the CB group on a register or the byte at HL (R235 to R250), BIT, RES and SET (R251 to R256). -/

namespace Sys2Proof.Machine

/-! ### The result and the carry of `Rot` (R230), bit by bit -/

section
variable (v : Byte) (b : BitVec 1) {j : Nat} (hj : j < 8)
include hj

/-- A shift towards bit 7, with `b` coming in at bit 0. -/
theorem getLsbD_shiftedUp : (v.extractLsb' 0 7 ++ b : Byte).getLsbD j =
    if j = 0 then b.getLsbD 0 else v.getLsbD (j - 1) := by
  refine BitVec.getLsbD_append.trans ?_
  by_cases h0 : j = 0
  · simp [h0]
  · have inside : j - 1 < 7 := by omega
    simp [h0, inside]

/-- A shift towards bit 0, with `b` coming in at bit 7. -/
theorem getLsbD_shiftedDown : (b ++ v.extractLsb' 1 7 : Byte).getLsbD j =
    if j = 7 then b.getLsbD 0 else v.getLsbD (j + 1) := by
  refine BitVec.getLsbD_append.trans ?_
  by_cases h7 : j = 7
  · simp [h7]
  · have inside : j < 7 := by omega
    simp [h7, inside, Nat.add_comm]

theorem getLsbD_nibblesSwapped : (v.extractLsb' 0 4 ++ v.extractLsb' 4 4 : Byte).getLsbD j =
    v.getLsbD ((j + 4) % 8) := by
  refine BitVec.getLsbD_append.trans ?_
  by_cases low : j < 4
  · have up : (j + 4) % 8 = 4 + j := by omega
    simp [low, up]
  · have down : (j + 4) % 8 = j - 4 := by omega
    have inside : j - 4 < 4 := by omega
    simp [low, down, inside]

theorem rotResult_getLsbD (k : RotOp) (cin : Bool) : (rotResult k v cin).getLsbD j = rotBit k v cin j := by
  cases k with
  | rlc =>
    refine (getLsbD_shiftedUp v _ hj).trans ?_
    by_cases h0 : j = 0
    · simp [rotBit, h0]
    · have wrapped : (j + 7) % 8 = j - 1 := by omega
      simp [rotBit, h0, wrapped]
  | rrc =>
    refine (getLsbD_shiftedDown v _ hj).trans ?_
    by_cases h7 : j = 7
    · simp [rotBit, h7]
    · have inside : (j + 1) % 8 = j + 1 := by omega
      simp [rotBit, h7, inside]
  | rl => exact (getLsbD_shiftedUp v _ hj).trans (by simp [rotBit])
  | rr => exact (getLsbD_shiftedDown v _ hj).trans (by simp [rotBit])
  | sla => exact (getLsbD_shiftedUp v _ hj).trans (by simp [rotBit])
  | sra => exact (getLsbD_shiftedDown v _ hj).trans (by simp [rotBit])
  | swap => exact getLsbD_nibblesSwapped v hj
  | srl => exact (getLsbD_shiftedDown v _ hj).trans (by simp [rotBit])

end

theorem rotCarry_eq_rotOut (k : RotOp) (v : Byte) : rotCarry k v = rotOut k v := by
  cases k <;> rfl

/-! ### A register rotated -/

/-- What an instruction leaves that writes a register rotated and the carry out. -/
theorem exec_rot_effect {i : Instr} {s : State} {k : RotOp} {r : Reg8} {z : Bool}
    (hi : exec i s = .next ((s.setReg r (rotResult k (s.reg r) s.fC)).setFlags z false false (rotCarry k (s.reg r)))) :
    ∃ t, exec i s = .next t ∧ t.reg r = rotResult k (s.reg r) s.fC ∧
      (∀ j, j < 8 → (t.reg r).getLsbD j = rotBit k (s.reg r) s.fC j) ∧
      FlagsAre s t z false false (rotOut k (s.reg r)) ∧ OnlyRegAndFlags r s t ∧ StoresNothing s t := by
  rw [rotCarry_eq_rotOut] at hi
  obtain ⟨res, effect⟩ := setReg_setFlags_effect s r (rotResult k (s.reg r) s.fC) z false false (rotOut k (s.reg r))
  refine ⟨_, hi, res, fun j hj => ?_, effect⟩
  rw [res, rotResult_getLsbD _ hj]

/-- Settles O47: an accumulator rotate is that of the register A, with Z written 0. -/
theorem accumulatorRotates : Obligations.AccumulatorRotates := by
  unfold Obligations.AccumulatorRotates
  intro s i k hik
  have rotates : exec i s = rotAccumulator k s := by
    simp only [List.mem_cons, List.not_mem_nil, or_false, Prod.mk.injEq] at hik
    rcases hik with ⟨rfl, rfl⟩ | ⟨rfl, rfl⟩ | ⟨rfl, rfl⟩ | ⟨rfl, rfl⟩ <;> rfl
  obtain ⟨t, ht, -, effect⟩ := exec_rot_effect (r := .a) rotates
  exact ⟨t, ht, effect⟩

theorem exec_of_rotForm {i : Instr} {k : RotOp} {r : Reg8} (h : rotForm i = some (k, r)) (s : State) :
    exec i s = rotReg k r s := by
  cases i with
  | rlcR | rrcR | rlR | rrR | slaR | sraR | swapR | srlR =>
    cases h
    rfl
  | _ => cases h

/-- Settles O48: Z is written from the same result as the register. -/
theorem registerRotates : Obligations.RegisterRotates := by
  unfold Obligations.RegisterRotates
  intro s i k r h
  obtain ⟨t, ht, res, effect⟩ := exec_rot_effect (exec_of_rotForm h s)
  rw [← res] at effect
  exact ⟨t, ht, effect⟩

/-! ### The byte at HL rotated -/

theorem exec_of_rotAtHlForm {i : Instr} {k : RotOp} (h : rotAtHlForm i = some k) (s : State) :
    exec i s = rotAtHl k s := by
  cases i with
  | rlcHl | rrcHl | rlHl | rrHl | slaHl | sraHl | swapHl | srlHl =>
    cases h
    rfl
  | _ => cases h

/-- Settles O49: one read and one write at HL, then the flags of the byte written and of the bit shifted out. -/
theorem memoryRotates : Obligations.MemoryRotates := by
  unfold Obligations.MemoryRotates
  intro s i k h ha
  obtain ⟨v, hv⟩ := exists_busRead s ha
  obtain ⟨u, hu, regs, stored⟩ := byteStoreEffect s s.hl (rotResult k v s.fC) ha
  have rotates : exec i s = .next (rotFlags k v s.fC u) :=
    (exec_of_rotAtHlForm h s).trans ((withRead_some hv).trans (withWrite_some hu))
  rw [rotFlags, rotCarry_eq_rotOut] at rotates
  exact ⟨v, rotResult k v s.fC, _, hv, rotates, stored_withRegs stored _, fun j hj => rotResult_getLsbD v hj k s.fC,
    flagsAre_setFlags _ _ _ _ (congrArg Regs.f regs), onlyFlags_setFlags _ _ _ _ regs⟩

/-! ### One bit tested or written -/

theorem bitFlags_effect (s : State) (b : Fin 8) (v : Byte) :
    FlagsAre s (bitFlags b v s) (!v.getLsbD b) false true s.fC ∧ OnlyFlags s (bitFlags b v s) ∧
      StoresNothing s (bitFlags b v s) :=
  ⟨flagsAre_setFlags _ _ _ _ rfl, onlyFlags_setFlags _ _ _ _ rfl, storesNothing_withRegs s _⟩

/-- Settles O50: both forms write the flags alone, (HL) after its one read. -/
theorem bitTests : Obligations.BitTests := by
  unfold Obligations.BitTests
  constructor
  · intro s b r
    exact ⟨_, rfl, bitFlags_effect s b (s.reg r)⟩
  · intro s b ha
    obtain ⟨v, hv⟩ := exists_busRead s ha
    exact ⟨v, _, hv, withRead_some hv, bitFlags_effect s b v⟩

theorem bitMask_getLsbD (b : Fin 8) (j : Nat) : (bitMask b).getLsbD j = decide (j = b.val) := by
  rw [bitMask, ← BitVec.twoPow_eq, BitVec.getLsbD_twoPow, decide_eq_true b.isLt, Bool.true_and,
    decide_eq_decide, eq_comm]

theorem getLsbD_and_not_bitMask (v : Byte) (b : Fin 8) (j : Nat) :
    (v &&& ~~~bitMask b).getLsbD j = if j = b.val then false else v.getLsbD j := by
  rw [BitVec.getLsbD_and, BitVec.getLsbD_not, bitMask_getLsbD]
  by_cases hb : j = b.val
  · simp [hb]
  · by_cases hj : j < 8
    · simp [hb, hj]
    · simp [hb, BitVec.getLsbD_of_ge v j (Nat.le_of_not_lt hj)]

theorem getLsbD_or_bitMask (v : Byte) (b : Fin 8) (j : Nat) :
    (v ||| bitMask b).getLsbD j = if j = b.val then true else v.getLsbD j := by
  rw [BitVec.getLsbD_or, bitMask_getLsbD]
  by_cases hb : j = b.val <;> simp [hb]

/-- Settles O51: RES and SET write the operand back, at the register or at HL, with bit `b` masked. -/
theorem bitWrites : Obligations.BitWrites := by
  unfold Obligations.BitWrites
  constructor
  · intro s b r
    obtain ⟨cleared, clearedFrame⟩ := setReg_effect s r (s.reg r &&& ~~~bitMask b)
    obtain ⟨written, writtenFrame⟩ := setReg_effect s r (s.reg r ||| bitMask b)
    refine ⟨⟨_, rfl, fun j => ?_, clearedFrame⟩, _, rfl, fun j => ?_, writtenFrame⟩
    · rw [cleared, getLsbD_and_not_bitMask]
    · rw [written, getLsbD_or_bitMask]
  · intro s b ha
    obtain ⟨v, hv⟩ := exists_busRead s ha
    obtain ⟨t, ht, regs, stored⟩ := byteStoreEffect s s.hl (v &&& ~~~bitMask b) ha
    obtain ⟨u, hu, regs', stored'⟩ := byteStoreEffect s s.hl (v ||| bitMask b) ha
    exact ⟨v, hv,
      ⟨_, t, (withRead_some hv).trans (withWrite_some ht), stored, regs, getLsbD_and_not_bitMask v b⟩,
      _, u, (withRead_some hv).trans (withWrite_some hu), stored', regs', getLsbD_or_bitMask v b⟩

end Sys2Proof.Machine
end

section
/-! Control flow (`45_control_flow.md`): jumps (R271 to R275), calls (R276, R277, R281) and returns (R278 to R280). A
conditional form is its unconditional one where the condition holds (R270), and nothing where it does not. -/

namespace Sys2Proof.Machine

/-! ### The condition (R270) -/

theorem holdsCond_iff (s : State) (cc : Cond) : holdsCond s cc ↔ s.cond cc = true := by
  cases cc with
  | nz | nc => exact (Bool.not_eq_true' _).symm.to_iff
  | z | c => exact Iff.rfl

section
variable {s : State} {cc : Cond}

theorem exec_conditional_taken (h : holdsCond s cc) :
    (∀ nn, exec (.jpCc cc nn) s = exec (.jpA16 nn) s) ∧ (∀ e, exec (.jrCc cc e) s = exec (.jrR8 e) s) ∧
    (∀ nn, exec (.callCc cc nn) s = exec (.callA16 nn) s) ∧ exec (.retCc cc) s = exec .ret s :=
  have hc := (holdsCond_iff s cc).mp h
  ⟨fun _ => if_pos hc, fun _ => if_pos hc, fun _ => if_pos hc, if_pos hc⟩

theorem exec_conditional_not_taken (h : ¬ holdsCond s cc) :
    (∀ nn, exec (.jpCc cc nn) s = .next s) ∧ (∀ e, exec (.jrCc cc e) s = .next s) ∧
    (∀ nn, exec (.callCc cc nn) s = .next s) ∧ exec (.retCc cc) s = .next s :=
  have hc := mt (holdsCond_iff s cc).mpr h
  ⟨fun _ => if_neg hc, fun _ => if_neg hc, fun _ => if_neg hc, if_neg hc⟩

end

/-! ### Jumps -/

/-- The relative target is the sum ADD SP,r8 makes, of PC (R220, R274). -/
theorem State.relative_eq (s : State) (e : Byte) :
    s.relative e = BitVec.ofInt 16 ((s.regs.pc.toNat : Int) + e.toInt) := addSp_res s.regs.pc e

theorem setPc_effect (s : State) (pc : Word) :
    (s.setPc pc).regs = { s.regs with pc := pc } ∧ StoresNothing s (s.setPc pc) :=
  ⟨rfl, storesNothing_withRegs s _⟩

/-- Settles O52: every form that goes is one write of PC. -/
theorem jumps : Obligations.Jumps := by
  unfold Obligations.Jumps
  intro s cc nn e goesTo relative
  have absolute : goesTo (.jpA16 nn) nn := ⟨_, rfl, setPc_effect s nn⟩
  have toHl : goesTo .jpHl s.hl := ⟨_, rfl, setPc_effect s s.hl⟩
  have byOffset : goesTo (.jrR8 e) relative := by
    have target : s.relative e = relative := s.relative_eq e
    rw [← target]
    exact ⟨_, rfl, setPc_effect s (s.relative e)⟩
  refine ⟨absolute, toHl, byOffset, fun h => ?taken, fun h => ?notTaken⟩
  case taken =>
    obtain ⟨jp, jr, -⟩ := exec_conditional_taken h
    simp only [goesTo, jp, jr]
    exact ⟨absolute, byOffset⟩
  case notTaken =>
    obtain ⟨jp, jr, -⟩ := exec_conditional_not_taken h
    exact ⟨jp nn, jr e⟩

/-! ### Calls -/

theorem storedWord_withRegs {s t : State} {a v : Word} (h : StoredWord s t a v) (g : Regs) :
    StoredWord s { t with regs := g } a v :=
  let ⟨others, u, hlo, hhi⟩ := h
  ⟨others, u, hlo, stored_withRegs hhi g⟩

/-- The push keeps every register but SP, and PC is written after it. -/
theorem callTo_effect (s : State) (target : Word) (ha : ¬ IsFatal (pushAddress s))
    (ha1 : ¬ IsFatal (pushAddress s + 1)) :
    ∃ t, callTo target s = .next t ∧ t.regs = { s.regs with sp := s.regs.sp - 2, pc := target } ∧
      StoredWord s t (pushAddress s) s.regs.pc := by
  obtain ⟨t, push, regs, stored⟩ := withPush16_effect s s.regs.pc ha ha1
  refine ⟨t.setPc target, push _, ?_, storedWord_withRegs stored _⟩
  simp only [State.setPc, regs]

/-- Settles O53: CALL and RST are `callTo` their target. -/
theorem calls : Obligations.Calls := by
  unfold Obligations.Calls
  intro s cc nn n goesTo
  have call : goesTo (.callA16 nn) nn := callTo_effect s nn
  have restart : goesTo (.rst n) (BitVec.ofNat 16 (8 * n.val)) := callTo_effect s _
  refine ⟨call, restart, fun h => ?taken, fun h => ?notTaken⟩
  case taken =>
    obtain ⟨-, -, callCc, -⟩ := exec_conditional_taken h
    simp only [goesTo, callCc]
    exact call
  case notTaken =>
    obtain ⟨-, -, callCc, -⟩ := exec_conditional_not_taken h
    exact callCc nn

/-! ### Returns -/

theorem exec_ret (s : State) : exec .ret s = withPop16 s fun v t => .next (t.setPc v) := rfl

theorem exec_reti (s : State) : exec .reti s = withPop16 s fun v t => .next (returnFromInterrupt t v) := rfl

theorem exec_ret_effect {s : State} {lo hi : Byte} (hlo : busRead s s.regs.sp = some lo)
    (hhi : busRead s (s.regs.sp + 1) = some hi) :
    ∃ t, exec .ret s = .next t ∧ t.regs = { s.regs with sp := s.regs.sp + 2, pc := hi ++ lo } ∧ StoresNothing s t :=
  ⟨_, (exec_ret s).trans (withPop16_some hlo hhi), rfl, storesNothing_withRegs s _⟩

/-- Settles O54: outside the fatal ranges the two reads answer the address popped into PC; RETI then writes the control
state (R280). -/
theorem returns : Obligations.Returns := by
  unfold Obligations.Returns
  intro s cc
  refine ⟨fun ha ha1 => ?popped, fun h => ?notTaken⟩
  case popped =>
    obtain ⟨lo, hlo⟩ := exists_busRead s ha
    obtain ⟨hi, hhi⟩ := exists_busRead s ha1
    have ret := exec_ret_effect hlo hhi
    refine ⟨lo, hi, hlo, hhi, ret, fun h => ?_, (exec_reti s).trans (withPop16_some hlo hhi)⟩
    obtain ⟨-, -, -, retCc⟩ := exec_conditional_taken h
    rw [retCc]
    exact ret
  case notTaken =>
    obtain ⟨-, -, -, retCc⟩ := exec_conditional_not_taken h
    exact retCc

end Sys2Proof.Machine
end

section
/-! The system instructions (`46_system.md`): NOP, HALT, DI and EI (R290, R292 to R294), the fault STOP and ILLEGAL latch
(R291, R296), the Step of a halted machine (R19, R93, R344), and EI with DI after it (R361). -/

namespace Sys2Proof.Machine

/-! ### The countdowns armed (R293, R294) -/

theorem exec_ei (s : State) :
    exec .ei s = .next { s with intc := { s.intc with pe := armIfIdle s.intc.pe, pd := .idle } } := rfl

theorem exec_di (s : State) :
    exec .di s = .next { s with intc := { s.intc with pd := armIfIdle s.intc.pd, pe := .idle } } := rfl

/-- Settles O55: each next state is one update of `s`, and `armIfIdle` is the condition of R293 and R294. -/
theorem nopHaltEiDi : Obligations.NopHaltEiDi := by
  unfold Obligations.NopHaltEiDi
  intro s
  exact ⟨rfl, rfl, ⟨_, exec_ei s, rfl, rfl, rfl, rfl, rfl, rfl⟩, _, exec_di s, rfl, rfl, rfl, rfl, rfl, rfl⟩

/-! ### A fault latched (R291, R296, R300) -/

/-- A machine with a latched fault takes no Step (R300). -/
theorem step_of_latched {s : State} {f : Fault} (h : s.fault = some f) : step s = .fault f := by
  simp only [step, h]

/-- Settles O56: both Operations raise, and the latch decides the next Step. -/
theorem stopAndIllegalLatch : Obligations.StopAndIllegalLatch := by
  unfold Obligations.StopAndIllegalLatch
  exact ⟨fun _ _ => ⟨rfl, step_of_latched rfl⟩, fun _ _ _ => ⟨rfl, step_of_latched rfl⟩⟩

/-! ### The Step of a halted machine (R19, R93, R344) -/

/-- Taking an interrupt: SP is lowered, and either both bytes are pushed and the vector entered, or the push raised and
the halted state stands (R316). -/
theorem dispatch_outcome (i : IrqSource) (s : State) :
    Answers (dispatch i s) fun t =>
      (t.halted = false ∧ t.fault = s.fault ∧ t.intc.ime = false ∧
        t.regs = { s.regs with sp := s.regs.sp - 2, pc := i.vector }) ∨
      (t.halted = s.halted ∧ t.fault ≠ none ∧ t.regs = { s.regs with sp := s.regs.sp - 2 }) := by
  refine answers_dispatch (fun u t hu ht => ?entered) (fun _ => ?firstRefused) fun u hu _ => ?secondRefused
  case entered =>
    obtain ⟨hregs, -, -, -, -, hfault, -⟩ := busWrite_frame hu
    obtain ⟨hregs', -, -, -, -, hfault', -⟩ := busWrite_frame ht
    have hg : t.regs = { s.regs with sp := s.regs.sp - 2 } := hregs'.trans hregs
    exact .inl ⟨rfl, hfault'.trans hfault, rfl, congrArg (fun g : Regs => { g with pc := i.vector }) hg⟩
  case firstRefused => exact .inr ⟨rfl, nofun, rfl⟩
  case secondRefused =>
    obtain ⟨hregs, -, -, -, hhalted, -⟩ := busWrite_frame hu
    exact .inr ⟨hhalted, nofun, hregs⟩

/-- The host's request, the ticks and the countdowns touch no register, no cell, neither the halted state nor the
latch. -/
theorem polled_frame (n : Nat) (s : State) :
    (countdowns (tickN n (takeRequest s))).regs = s.regs ∧ (countdowns (tickN n (takeRequest s))).mem = s.mem ∧
    (countdowns (tickN n (takeRequest s))).halted = s.halted ∧
    (countdowns (tickN n (takeRequest s))).fault = s.fault := by
  obtain ⟨hr, hm, hh, hf, -⟩ := takeRequest_frame s
  obtain ⟨hr', hm', hh', hf', -⟩ := tickN_frame n (takeRequest s)
  obtain ⟨hr'', hm'', hh'', hf'', -⟩ := countdowns_frame (tickN n (takeRequest s))
  exact ⟨(hr''.trans hr').trans hr, (hm''.trans hm').trans hm, (hh''.trans hh').trans hh, (hf''.trans hf').trans hf⟩

/-- The interrupt phase is the countdowns alone, or one dispatch after them (R313 to R315). -/
theorem interruptPhase_cases (s : State) :
    Answers (interruptPhase s) fun t => t = countdowns s ∨ ∃ i, dispatch i (countdowns s) = .next t := by
  refine answers_interruptPhase (fun _ => .inl rfl) fun i _ _ => ?_
  obtain ⟨t, dispatched, -⟩ := dispatch_outcome i (countdowns s)
  exact ⟨t, dispatched, .inr ⟨i, dispatched⟩⟩

/-- Settles O13: the interrupt phase of the halted machine's Step is the countdowns alone or one dispatch. -/
theorem haltedStepOnlyPolls : Obligations.HaltedStepOnlyPolls := by
  unfold Obligations.HaltedStepOnlyPolls
  intro s t hf hh e
  rw [step_of_halted hf hh] at e
  obtain ⟨hr, hm, hh', hf'⟩ := polled_frame haltTicks s
  rw [hf] at hf'
  rw [hh] at hh'
  obtain rfl | ⟨i, dispatched⟩ := (interruptPhase_cases _).of_eq e
  · exact .inl ⟨hh', hf', hr, hm⟩
  · have outcome := (dispatch_outcome i _).of_eq dispatched
    rw [hr, hh', hf'] at outcome
    obtain ⟨halted, fault, ime, regs⟩ | raised := outcome
    · exact .inr (.inl ⟨halted, fault, ime, i, regs⟩)
    · exact .inr (.inr raised)

/-! ### EI, then DI (R293, R294, R314, R361) -/

/-- Only an enable that falls due sets IME in the countdowns (R314). -/
theorem countdowns_ime_false {s : State} (hime : s.intc.ime = false) (hpe : s.intc.pe ≠ .due) :
    (countdowns s).intc.ime = false := by
  have enable : (countEnable s.intc).ime = false := by
    unfold countEnable
    cases h : s.intc.pe with
    | idle | armed => exact hime
    | due => exact absurd h hpe
  unfold countdowns countDisable
  cases (countEnable s.intc).pd with
  | idle | armed => exact enable
  | due => rfl

/-- The end of a Step with IME false and no enable that falls due: there is no scan. -/
theorem finishStep_disabled {t : State} (n : Nat) (hf : t.fault = none) (hime : t.intc.ime = false)
    (hpe : t.intc.pe ≠ .due) :
    Answers (finishStep n (.next t)) fun u => u.intc.ime = false ∧ u.intc.pe = t.intc.pe.next ∧ u.regs = t.regs := by
  obtain ⟨hr, -, -, -, -, -, hime', hpe', -⟩ := tickN_frame n t
  have quiet : (countdowns (tickN n t)).intc.ime = false := countdowns_ime_false (hime'.trans hime) (hpe' ▸ hpe)
  obtain ⟨hr', -⟩ := countdowns_frame (tickN n t)
  obtain ⟨counted, -⟩ := countdowns_counts (tickN n t)
  rw [finishStep_next, if_pos hf]
  refine answers_interruptPhase (fun _ => ⟨quiet, counted.trans (congrArg _ hpe'), hr'.trans hr⟩) fun i enabled _ => ?_
  simp [quiet] at enabled

/-- The Step of an instruction whose Operation keeps the registers and leaves IME false and no enable due: the enable
it leaves is counted, and nothing is dispatched. -/
theorem step_disabled {s t : State} {i : Instr} (hi : i.wellFormed = true) (h : Fetches s (encode i))
    (hexec : exec i ((takeRequest s).setPc (s.regs.pc + BitVec.ofNat 16 (encode i).length)) = .next t)
    (hregs : t.regs = { (takeRequest s).regs with pc := s.regs.pc + BitVec.ofNat 16 (encode i).length })
    (hfault : t.fault = (takeRequest s).fault) (hime : t.intc.ime = false) (hpe : t.intc.pe ≠ .due) :
    Answers (step s) fun u => u.intc.ime = false ∧ u.intc.pe = t.intc.pe.next ∧
      u.regs = { s.regs with pc := s.regs.pc + BitVec.ofNat 16 (encode i).length } := by
  obtain ⟨-, -, -, safe, -⟩ := takeRequest_frame s
  rw [takeRequest_regs] at hregs
  rw [step_of_fetches hi h, hexec, ← hregs]
  obtain ⟨hf, -⟩ := h
  exact finishStep_disabled _ (hfault.trans (safe.trans hf)) hime hpe

/-- EI with no enable pending arms one, which its own Step counts to 1 (R294, R314). -/
theorem step_ei_disabled {s : State} (h : Fetches s [0xFB]) (hime : s.intc.ime = false) (hpe : s.intc.pe = .idle) :
    Answers (step s) fun t => t.intc.ime = false ∧ t.intc.pe = .due ∧
      t.regs = { s.regs with pc := s.regs.pc + 1 } := by
  obtain ⟨-, -, -, -, -, -, hime', hpe', -⟩ := takeRequest_frame s
  have armed : armIfIdle (takeRequest s).intc.pe = .armed := by rw [hpe', hpe]; rfl
  have answer := step_disabled (i := .ei) rfl h (exec_ei _) rfl rfl (hime'.trans hime)
    (show armIfIdle (takeRequest s).intc.pe ≠ .due by rw [armed]; nofun)
  refine answer.mono fun t ht => ?_
  obtain ⟨ime, counted, regs⟩ := ht
  exact ⟨ime, counted.trans (congrArg Countdown.next armed), regs⟩

/-- DI clears the pending enable before it falls due (R293). -/
theorem step_di_disabled {s : State} (h : Fetches s [0xF3]) (hime : s.intc.ime = false) :
    Answers (step s) fun t => t.intc.ime = false ∧ t.intc.pe = .idle ∧
      t.regs = { s.regs with pc := s.regs.pc + 1 } := by
  obtain ⟨-, -, -, -, -, -, hime', -⟩ := takeRequest_frame s
  exact step_disabled (i := .di) rfl h (exec_di _) rfl rfl (hime'.trans hime) nofun

/-- Settles O16: EI leaves its enable at 1, and DI clears it before the countdowns of its Step. -/
theorem eiThenDiNeverEnables : Obligations.EiThenDiNeverEnables := by
  unfold Obligations.EiThenDiNeverEnables
  intro s h hime hpe
  obtain ⟨t, first, ime, pe, regs⟩ := step_ei_disabled h hime hpe
  refine ⟨t, first, ime, pe, regs, fun h' => ?_⟩
  obtain ⟨u, second, ime', pe', regs'⟩ := step_di_disabled h' ime
  refine ⟨u, second, ime', pe', regs'.trans ?_⟩
  simp [regs, add_assoc]

end Sys2Proof.Machine
end

section
/-! The machine at rest (`70_reset_and_hazards.md`): reset (R350), and the Steps of a halted machine that nothing can
wake (R364). -/

namespace Sys2Proof.Machine

/-! ### Reset -/

theorem inv_resetWith {p : Launch} (h : p.image.wf = true) : Inv (State.resetWith p) where
  flags := Regs.reset_low _
  cells := h
  enable := nofun
  disable := nofun
  exclusive := .inl rfl
  latch := nofun

/-- Settles O11: the image of `State.reset` lists no cell. -/
theorem resetHasInvariant : Obligations.ResetHasInvariant := by
  unfold Obligations.ResetHasInvariant
  exact ⟨inv_resetWith Memory.wf_nil, fun _ => inv_resetWith⟩

/-! ### What ticks and countdowns change (R314, R330 to R332) -/

/-- From `s` to `t` the timer has counted `n` ticks, and no register, cell, IE, TMA or TAC has changed; IF has at most
the timer's request besides. -/
structure Counted (n : Nat) (s t : State) : Prop where
  regs : t.regs = s.regs
  mem : t.mem = s.mem
  ie : t.intc.ie = s.intc.ie
  tma : t.timer.tma = s.timer.tma
  tac : t.timer.tac = s.timer.tac
  div : t.timer.div = s.timer.div + BitVec.ofNat 16 n
  iflag : t.intc.iflag = s.intc.iflag ∨ t.intc.iflag = s.intc.iflag ||| 0x04

theorem Counted.refl (s : State) : Counted 0 s s :=
  ⟨rfl, rfl, rfl, rfl, rfl, (BitVec.add_zero _).symm, .inl rfl⟩

theorem Counted.trans {m n : Nat} {s t u : State} (h : Counted m s t) (h' : Counted n t u) : Counted (n + m) s u where
  regs := h'.regs.trans h.regs
  mem := h'.mem.trans h.mem
  ie := h'.ie.trans h.ie
  tma := h'.tma.trans h.tma
  tac := h'.tac.trans h.tac
  div := by rw [h'.div, h.div, Nat.add_comm n m, BitVec.ofNat_add, BitVec.add_assoc]
  iflag := by
    rcases h.iflag with hf | hf <;> rcases h'.iflag with hf' | hf' <;> simp [hf', hf, BitVec.or_assoc]

theorem counted_tick (s : State) : Counted 1 s (tick s) :=
  have ⟨regs, mem, _, _, _, _, _, _, _, ie, tma, tac, div⟩ := tick_frame s
  ⟨regs, mem, ie, tma, tac, div, tick_iflag s⟩

theorem counted_tickN (n : Nat) (s : State) : Counted n s (tickN n s) := by
  induction n generalizing s with
  | zero => exact .refl s
  | succ n ih => exact (counted_tick s).trans (ih (tick s))

theorem counted_countdowns (s : State) : Counted 0 s (countdowns s) :=
  have ⟨regs, mem, _, _, _, _, timer, ie, iflag⟩ := countdowns_frame s
  ⟨regs, mem, ie, congrArg _ timer, congrArg _ timer, (congrArg _ timer).trans (BitVec.add_zero _).symm, .inl iflag⟩

/-! ### The quiescent machine (R364) -/

/-- Quiescent, with no fault latched and no host request to come. -/
structure Idle (s : State) : Prop where
  quiescent : Quiescent s
  fault : s.fault = none
  requests : s.requests = []

/-- IME stays false with no enable pending, so the Step of an idle machine makes no scan. -/
theorem Idle.step_counts {s : State} (h : Idle s) : Answers (step s) fun t => Idle t ∧ Counted 4 s t := by
  obtain ⟨⟨halted, ime, pe⟩, fault, requests⟩ := h
  have noRequest : takeRequest s = s := by simp only [takeRequest, requests]
  rw [step_of_halted fault halted, noRequest]
  obtain ⟨-, -, halted', fault', -, requests', ime', pe', -⟩ := tickN_frame haltTicks s
  obtain ⟨-, -, halted'', fault'', -, requests'', -⟩ := countdowns_frame (tickN haltTicks s)
  have disabled : (countdowns (tickN haltTicks s)).intc.ime = false :=
    countdowns_ime_false (ime'.trans ime) (by rw [pe', pe]; nofun)
  have noEnable : (countdowns (tickN haltTicks s)).intc.pe = .idle := by
    rw [(countdowns_counts _).1, pe', pe]; rfl
  refine answers_interruptPhase (fun _ => ⟨⟨⟨?_, disabled, noEnable⟩, ?_, ?_⟩, ?_⟩) fun i enabled _ => ?_
  · exact (halted''.trans halted').trans halted
  · exact (fault''.trans fault').trans fault
  · exact (requests''.trans requests').trans requests
  · exact (counted_tickN haltTicks s).trans (counted_countdowns _)
  · exact absurd (disabled.symm.trans enabled) nofun

theorem run_succ_of_step {M : Host.Core} {s u : M.State} (h : M.step s = .next u) (k : Nat) :
    M.run (k + 1) s = M.run k u := by simp only [Host.Core.run, h]

theorem Idle.run_counts (k : Nat) {s : State} (h : Idle s) :
    Answers (Sys2Proof.core.run k s) fun t => Idle t ∧ Counted (4 * k) s t := by
  induction k generalizing s with
  | zero => exact .next ⟨h, .refl s⟩
  | succ k ih =>
    obtain ⟨u, first, idle, counted⟩ := h.step_counts
    rw [run_succ_of_step (M := Sys2Proof.core) first k]
    refine (ih idle).mono fun t ht => ?_
    obtain ⟨idle', counted'⟩ := ht
    exact ⟨idle', counted.trans counted'⟩

/-- An enable that falls due sets IME, unless a disable falls due with it (R314). -/
theorem countdowns_ime_true {s : State} (hpe : s.intc.pe = .due) (hpd : s.intc.pd ≠ .due) :
    (countdowns s).intc.ime = true := by
  have enable : countEnable s.intc = { s.intc with pe := .idle, ime := true } := by simp only [countEnable, hpe]
  rw [countdowns, enable, countDisable]
  cases hd : s.intc.pd with
  | idle | armed => rfl
  | due => exact absurd hd hpd

theorem exec_halt (s : State) : exec .halt s = .next { s with halted := true } := rfl

/-- Settles O14: a Step of the idle machine leaves it idle, with four ticks counted; HALT leaves the countdowns as they
were, so that an enable due then falls due in its Step. -/
theorem quiescentForEver : Obligations.QuiescentForEver := by
  unfold Obligations.QuiescentForEver
  constructor
  · intro k s quiescent fault requests
    obtain ⟨t, run, idle, counted⟩ := Idle.run_counts k ⟨quiescent, fault, requests⟩
    exact ⟨t, run, idle.quiescent, idle.fault, counted.regs, counted.mem, counted.ie, counted.tma, counted.tac,
      counted.div, counted.iflag⟩
  · intro s t hpe hpd halt
    cases (exec_halt s).symm.trans halt
    exact ⟨rfl, countdowns_ime_true hpe (by rw [hpd]; nofun)⟩

end Sys2Proof.Machine
end

section
/-! The timer (`60_exceptions.md` R330 to R332): one tick, n ticks without an overflow, and the ticks between two
overflows. -/

namespace Sys2Proof.Machine

/-! ### The period of TIMA (R25, R330) -/

theorem tacBit_timerPeriod : ∀ tac : Byte,
    (tacBit tac = 9 ∧ timerPeriod tac = 1024) ∨ (tacBit tac = 3 ∧ timerPeriod tac = 16) ∨
    (tacBit tac = 5 ∧ timerPeriod tac = 64) ∨ (tacBit tac = 7 ∧ timerPeriod tac = 256) := by decide

theorem timerPeriod_cases (tac : Byte) :
    timerPeriod tac = 1024 ∨ timerPeriod tac = 16 ∨ timerPeriod tac = 64 ∨ timerPeriod tac = 256 :=
  (tacBit_timerPeriod tac).imp And.right (.imp And.right (.imp And.right And.right))

theorem timerPeriod_pos (tac : Byte) : 0 < timerPeriod tac := by
  rcases timerPeriod_cases tac with h | h | h | h <;> rw [h] <;> decide

/-- DIV stands at the last value of a period. -/
def EndsPeriod (tac : Byte) (d : Word) : Prop := d.toNat % timerPeriod tac = timerPeriod tac - 1

theorem toNat_add_one (d : Word) : (d + 1).toNat = (d.toNat + 1) % 0x10000 := rfl

/-- DIV wraps at the end of a period. -/
theorem toNat_add_ofNat_mod_timerPeriod (tac : Byte) (d : Word) (n : Nat) :
    (d + BitVec.ofNat 16 n).toNat % timerPeriod tac = (d.toNat + n) % timerPeriod tac := by
  rw [BitVec.toNat_add, BitVec.toNat_ofNat]
  rcases timerPeriod_cases tac with h | h | h | h <;> rw [h] <;> omega

theorem getLsbD_eq_decide (d : Word) (b : Nat) : d.getLsbD b = decide (d.toNat / 2 ^ b % 2 = 1) :=
  Nat.testBit_eq_decide_div_mod_eq

/-- The selected bit of DIV falls in the next tick exactly where a period ends. -/
theorem timerEdge_iff (tac : Byte) (d : Word) :
    timerEdge tac d (d + 1) = true ↔ tac.getLsbD 2 = true ∧ EndsPeriod tac d := by
  have hd := d.isLt
  simp only [timerEdge, tacEnabled, EndsPeriod, getLsbD_eq_decide _ (tacBit _), toNat_add_one, Bool.and_eq_true,
    Bool.not_eq_true', decide_eq_true_eq, decide_eq_false_iff_not, and_assoc, and_congr_right_iff]
  intro _
  rcases tacBit_timerPeriod tac with ⟨hb, hp⟩ | ⟨hb, hp⟩ | ⟨hb, hp⟩ | ⟨hb, hp⟩ <;> rw [hb, hp] <;> omega

/-! ### One tick -/

/-- The state `n` ticks later, TIMA having counted `k` times. -/
def afterTicks (s : State) (n k : Nat) : State :=
  { s with timer := { s.timer with div := s.timer.div + BitVec.ofNat 16 n, tima := s.timer.tima + BitVec.ofNat 8 k } }

/-- TIMA has not counted. -/
theorem afterTicks_uncounted (s : State) (n : Nat) :
    afterTicks s n 0 = { s with timer := { s.timer with div := s.timer.div + BitVec.ofNat 16 n } } := by
  simp only [afterTicks, BitVec.add_zero]

section
variable {s : State}

theorem tick_within_period (h : ¬ (s.timer.tac.getLsbD 2 = true ∧ EndsPeriod s.timer.tac s.timer.div)) :
    tick s = afterTicks s 1 0 :=
  (if_neg (mt (timerEdge_iff _ _).mp h)).trans (afterTicks_uncounted s 1).symm

section
variable (on : s.timer.tac.getLsbD 2 = true) (last : EndsPeriod s.timer.tac s.timer.div)
include on last

theorem tick_eq_timaIncrement :
    tick s = timaIncrement { s with timer := { s.timer with div := s.timer.div + 1 } } :=
  if_pos ((timerEdge_iff _ _).mpr ⟨on, last⟩)

theorem tick_counts (ht : s.timer.tima ≠ 0xFF) : tick s = afterTicks s 1 1 :=
  (tick_eq_timaIncrement on last).trans (if_neg ht)

theorem tick_overflows (ht : s.timer.tima = 0xFF) : tick s = { s with
    timer := { s.timer with div := s.timer.div + 1, tima := s.timer.tma }
    intc := { s.intc with iflag := s.intc.iflag ||| 0x04 } } :=
  (tick_eq_timaIncrement on last).trans (if_pos ht)

end
end

/-- Settles O19: the three ways a tick goes, by the end of a period and by TIMA at 0xFF. -/
theorem tickCountsOnTheFallingEdge : Obligations.TickCountsOnTheFallingEdge := by
  unfold Obligations.TickCountsOnTheFallingEdge
  refine fun s => ⟨(counted_tick s).div, fun on last ht => ?counts, fun on last ht => ?overflows, fun h => ?within⟩
  case counts =>
    rw [tick_counts on last ht]
    exact ⟨rfl, rfl⟩
  case overflows =>
    rw [tick_overflows on last ht]
    exact ⟨rfl, rfl⟩
  case within =>
    rw [tick_within_period fun ⟨on, last⟩ => h.elim (fun off => absurd (off.symm.trans on) nofun) (· last),
      afterTicks_uncounted]
    exact ⟨rfl, rfl⟩

/-! ### n ticks without an overflow -/

theorem afterTicks_zero (s : State) : afterTicks s 0 0 = s := by
  rw [afterTicks_uncounted, BitVec.add_zero]

theorem afterTicks_afterTicks (s : State) (m j n k : Nat) :
    afterTicks (afterTicks s m j) n k = afterTicks s (n + m) (k + j) := by
  simp only [afterTicks, Nat.add_comm _ m, Nat.add_comm _ j, BitVec.ofNat_add, BitVec.add_assoc]

/-- The number of period ends that `n` ticks from the DIV value `d` pass. -/
def periodEnds (tac : Byte) (d : Word) (n : Nat) : Nat :=
  (d.toNat + n) / timerPeriod tac - d.toNat / timerPeriod tac

theorem periodEnds_zero (tac : Byte) (d : Word) : periodEnds tac d 0 = 0 := Nat.sub_self _

section
variable {tac : Byte} {d : Word} (n : Nat)

theorem periodEnds_succ_of_end (h : EndsPeriod tac d) :
    periodEnds tac d (n + 1) = periodEnds tac (d + 1) n + 1 := by
  have hd := d.isLt
  unfold EndsPeriod at h
  rw [periodEnds, periodEnds, toNat_add_one]
  rcases timerPeriod_cases tac with hp | hp | hp | hp <;> rw [hp] at h ⊢ <;> omega

theorem periodEnds_succ_of_not_end (h : ¬ EndsPeriod tac d) :
    periodEnds tac d (n + 1) = periodEnds tac (d + 1) n := by
  have hd := d.isLt
  unfold EndsPeriod at h
  rw [periodEnds, periodEnds, toNat_add_one]
  rcases timerPeriod_cases tac with hp | hp | hp | hp <;> rw [hp] at h ⊢ <;> omega

/-- From the start of a period. -/
theorem periodEnds_of_start (h : d.toNat % timerPeriod tac = 0) : periodEnds tac d n = n / timerPeriod tac := by
  rw [periodEnds, Nat.add_div_of_dvd_right (Nat.dvd_of_mod_eq_zero h), Nat.add_sub_cancel_left]

theorem tickN_disabled {s : State} (off : s.timer.tac.getLsbD 2 = false) : tickN n s = afterTicks s n 0 := by
  induction n generalizing s with
  | zero => exact (afterTicks_zero s).symm
  | succ n ih =>
    have within : tick s = afterTicks s 1 0 := tick_within_period fun ⟨on, _⟩ => absurd (off.symm.trans on) nofun
    rw [tickN, within, ih (s := afterTicks s 1 0) off, afterTicks_afterTicks]

theorem tickN_enabled {s : State} (on : s.timer.tac.getLsbD 2 = true)
    (fits : s.timer.tima.toNat + periodEnds s.timer.tac s.timer.div n ≤ 0xFF) :
    tickN n s = afterTicks s n (periodEnds s.timer.tac s.timer.div n) := by
  induction n generalizing s with
  | zero => rw [periodEnds_zero, afterTicks_zero]; rfl
  | succ n ih =>
    by_cases last : EndsPeriod s.timer.tac s.timer.div
    · rw [periodEnds_succ_of_end n last] at fits ⊢
      have below : s.timer.tima ≠ 0xFF := by bv_omega
      have counted : (afterTicks s 1 1).timer.tima.toNat = s.timer.tima.toNat + 1 :=
        BitVec.toNat_add_of_lt (y := 1) (by bv_omega)
      have fits' : (afterTicks s 1 1).timer.tima.toNat + periodEnds s.timer.tac (s.timer.div + 1) n ≤ 0xFF := by omega
      rw [tickN, tick_counts on last below, ih (s := afterTicks s 1 1) on fits', afterTicks_afterTicks]
      rfl
    · rw [periodEnds_succ_of_not_end n last] at fits ⊢
      have fits' : (afterTicks s 1 0).timer.tima.toNat + periodEnds s.timer.tac (s.timer.div + 1) n ≤ 0xFF := by
        rw [afterTicks_uncounted]
        exact fits
      rw [tickN, tick_within_period fun h => last h.2, ih (s := afterTicks s 1 0) on fits', afterTicks_afterTicks]
      rfl

end

/-- Settles O20: by the first tick, which passes a period end or not. -/
theorem ticksCountPeriodEnds : Obligations.TicksCountPeriodEnds := by
  unfold Obligations.TicksCountPeriodEnds
  intro n s
  exact ⟨fun off => (tickN_disabled n off).trans (afterTicks_uncounted s n), tickN_enabled n⟩

/-! ### From overflow to overflow (R332) -/

theorem tickN_succ (n : Nat) (s : State) : tickN (n + 1) s = tick (tickN n s) := by
  induction n generalizing s with
  | zero => rfl
  | succ n ih => exact ih (tick s)

/-- Whole periods of ticks leave DIV at the start of a period. -/
theorem tickN_periods_div (k : Nat) {s : State} (start : s.timer.div.toNat % timerPeriod s.timer.tac = 0) :
    (tickN (k * timerPeriod s.timer.tac) s).timer.div.toNat % timerPeriod s.timer.tac = 0 := by
  rw [(counted_tickN _ s).div, toNat_add_ofNat_mod_timerPeriod, Nat.add_mul_mod_self_right, start]

section
variable {s : State} (on : s.timer.tac.getLsbD 2 = true) (start : s.timer.div.toNat % timerPeriod s.timer.tac = 0)
include on start

/-- Before the overflow. -/
theorem tickN_before_overflow {n : Nat} (hn : n < (256 - s.timer.tima.toNat) * timerPeriod s.timer.tac) :
    tickN n s = afterTicks s n (n / timerPeriod s.timer.tac) := by
  have counts := periodEnds_of_start n start
  have few : n / timerPeriod s.timer.tac < 256 - s.timer.tima.toNat :=
    (Nat.div_lt_iff_lt_mul (timerPeriod_pos _)).mpr hn
  rw [tickN_enabled n on (by omega), counts]

/-- The tick before the overflow leaves TIMA at 0xFF and DIV at the last value of a period. -/
theorem tickN_overflow {n : Nat} (hn : n + 1 = (256 - s.timer.tima.toNat) * timerPeriod s.timer.tac) :
    (tickN (n + 1) s).intc = { s.intc with iflag := s.intc.iflag ||| 0x04 } ∧
    (tickN (n + 1) s).timer.tima = s.timer.tma := by
  have before := tickN_before_overflow on start (n := n) (by omega)
  have counts : n / timerPeriod s.timer.tac = 255 - s.timer.tima.toNat ∧
      n % timerPeriod s.timer.tac = timerPeriod s.timer.tac - 1 := by
    rcases timerPeriod_cases s.timer.tac with hp | hp | hp | hp <;> rw [hp] at hn ⊢ <;> omega
  have full : s.timer.tima + BitVec.ofNat 8 (n / timerPeriod s.timer.tac) = 0xFF := by
    rw [counts.1]
    bv_omega
  have last : EndsPeriod s.timer.tac (s.timer.div + BitVec.ofNat 16 n) := by
    rw [EndsPeriod, toNat_add_ofNat_mod_timerPeriod, Nat.add_mod, start, Nat.zero_add, Nat.mod_mod, counts.2]
  rw [tickN_succ, before, tick_overflows (s := afterTicks s n _) on last full]
  exact ⟨rfl, rfl⟩

end

/-- Settles O21: the ticks of `256 - TMA` periods are one more than the ticks in which TIMA does not overflow. -/
theorem overflowPeriod : Obligations.OverflowPeriod := by
  unfold Obligations.OverflowPeriod
  intro s on reloaded start
  rw [← reloaded]
  have some_ticks : 0 < (256 - s.timer.tima.toNat) * timerPeriod s.timer.tac :=
    Nat.mul_pos (by have := s.timer.tima.isLt; omega) (timerPeriod_pos _)
  obtain ⟨n, hn⟩ := Nat.exists_eq_add_one.mpr some_ticks
  obtain ⟨requested, again⟩ := tickN_overflow on start hn.symm
  refine ⟨fun m hm => ?_, hn ▸ requested, hn ▸ again.trans reloaded.symm, tickN_periods_div _ start⟩
  rw [tickN_before_overflow on start hm]
  rfl

end Sys2Proof.Machine
end

section
/-! Refused data accesses (`60_exceptions.md` R300, R304): the instructions as the accesses they begin with, and what
has changed when the first or the second access of a word is refused. -/

namespace Sys2Proof.Machine

/-! ### The first access of an instruction -/

section
variable {i : Instr} {s : State} {a : Word}

theorem exec_of_readAddress (h : readAddress i s = some a) : ∃ k, exec i s = withRead s a k := by
  cases i with
  | ldRHl | ldAHli | ldAHld | addHl | adcHl | subHl | sbcHl | andHl | xorHl | orHl | cpHl | incHl | decHl
  | rlcHl | rrcHl | rlHl | rrHl | slaHl | sraHl | swapHl | srlHl | bitHl | resHl | setHl
  | ldABc | ldADe | ldhAA8 | ldAC | ldAA16 | popRr | popAf | ret | reti =>
    cases h
    exact ⟨_, rfl⟩
  | retCc cc =>
    obtain ⟨taken, hsp⟩ := Option.ite_none_right_eq_some.mp h
    cases hsp
    exact ⟨_, if_pos taken⟩
  | _ => cases h

theorem exec_of_writeAddress (h : writeAddress i s = some a) : ∃ v k, exec i s = withWrite s a v k := by
  cases i with
  | ldHlR | ldHlD8 | ldHliA | ldHldA | ldBcA | ldDeA | ldhA8A | ldCA | ldA16A | ldA16Sp =>
    cases h
    exact ⟨_, _, rfl⟩
  | _ => cases h

theorem exec_of_pushedWord {v : Word} (h : pushedWord i s = some v) : ∃ k, exec i s = withPush16 s v k := by
  cases i with
  | pushRr | callA16 | rst =>
    cases h
    exact ⟨_, rfl⟩
  | callCc cc =>
    obtain ⟨taken, hpc⟩ := Option.ite_none_right_eq_some.mp h
    cases hpc
    exact ⟨_, if_pos taken⟩
  | _ => cases h

end

/-- Settles O58: the instruction is the refused access and what it would have gone on with. -/
theorem refusedFirstAccess : Obligations.RefusedFirstAccess := by
  unfold Obligations.RefusedFirstAccess
  refine fun i s a ha => ⟨fun h => ?reads, fun h => ?stores⟩
  case reads =>
    obtain ⟨k, hexec⟩ := exec_of_readAddress h
    exact hexec.trans (withRead_none ((busRead_eq_none_iff s).mpr ha))
  case stores =>
    obtain ⟨v, k, hexec⟩ := exec_of_writeAddress h
    exact hexec.trans (withWrite_none ((busWrite_eq_none_iff s v).mpr ha))

/-! ### A word refused part way (R64, R65, R157, R158) -/

section
variable (s : State) {a : Word} (v : Word)

theorem withWrite16_refused_first (ha : IsFatal a) (k : State → Result) :
    withWrite16 s a v k = .next { s with fault := some (.busAccessError a .write) } :=
  withWrite_none ((busWrite_eq_none_iff s _).mpr ha)

/-- The low byte has been stored. -/
theorem withWrite16_refused_second (ha : ¬ IsFatal a) (ha1 : IsFatal (a + 1)) :
    ∃ u, Stored s u a (lo8 v) ∧ u.regs = s.regs ∧
      ∀ k, withWrite16 s a v k = .next { u with fault := some (.busAccessError (a + 1) .write) } := by
  obtain ⟨u, hu, regs, stored⟩ := byteStoreEffect s a (lo8 v) ha
  exact ⟨u, stored, regs, fun k =>
    (withWrite_some hu).trans (withWrite_none ((busWrite_eq_none_iff u _).mpr ha1))⟩

/-- SP has been lowered. -/
theorem withPush16_refused_first (ha : IsFatal (pushAddress s)) (k : State → Result) :
    withPush16 s v k = .next { s.setSp (pushAddress s) with
      fault := some (.busAccessError (pushAddress s) .write) } :=
  withWrite16_refused_first _ v ha k

/-- SP has been lowered and the low byte stored. -/
theorem withPush16_refused_second (ha : ¬ IsFatal (pushAddress s)) (ha1 : IsFatal (pushAddress s + 1)) :
    ∃ u, Stored s u (pushAddress s) (lo8 v) ∧ ∀ k, withPush16 s v k = .next { u with
      regs := { s.regs with sp := pushAddress s }
      fault := some (.busAccessError (pushAddress s + 1) .write) } := by
  obtain ⟨u, stored, regs, refused⟩ := withWrite16_refused_second (s.setSp (pushAddress s)) v ha ha1
  refine ⟨u, stored_of_withRegs stored, fun k => (refused k).trans ?_⟩
  rw [← show u.regs = { s.regs with sp := pushAddress s } from regs]

theorem withPop16_refused_second {s : State} (ha : ¬ IsFatal s.regs.sp) (ha1 : IsFatal (s.regs.sp + 1))
    (k : Word → State → Result) :
    withPop16 s k = .next { s with fault := some (.busAccessError (s.regs.sp + 1) .read) } := by
  obtain ⟨lo, hlo⟩ := exists_busRead s ha
  exact (withRead_some hlo).trans (withRead_none ((busRead_eq_none_iff s).mpr ha1))

end

theorem exec_of_pop {i : Instr} (h : i ∈ [Instr.popRr .bc, .popRr .de, .popRr .hl, .popAf, .ret, .reti]) (s : State) :
    ∃ k, exec i s = withPop16 s k := by
  simp only [List.mem_cons, List.not_mem_nil, or_false] at h
  rcases h with rfl | rfl | rfl | rfl | rfl | rfl
  · exact ⟨_, exec_popRr .bc s⟩
  · exact ⟨_, exec_popRr .de s⟩
  · exact ⟨_, exec_popRr .hl s⟩
  · exact ⟨_, exec_popAf s⟩
  · exact ⟨_, exec_ret s⟩
  · exact ⟨_, exec_reti s⟩

/-- Settles O59: each instruction is its push, store or pop, refused at the first byte or at the second. -/
theorem refusedStackAccess : Obligations.RefusedStackAccess := by
  unfold Obligations.RefusedStackAccess
  refine ⟨fun i s v h => ?push, fun s nn ha ha1 => ?store, fun i s h ha ha1 => ?pop, fun s cc h ha ha1 => ?retCc⟩
  case push =>
    obtain ⟨k, hexec⟩ := exec_of_pushedWord h
    rw [hexec]
    refine ⟨fun ha => withPush16_refused_first s v ha k, fun ha ha1 => ?_⟩
    obtain ⟨u, stored, refused⟩ := withPush16_refused_second s v ha ha1
    exact ⟨u, stored, refused k⟩
  case store =>
    obtain ⟨u, stored, regs, refused⟩ := withWrite16_refused_second s s.regs.sp ha ha1
    exact ⟨u, stored, regs, refused _⟩
  case pop =>
    obtain ⟨k, hexec⟩ := exec_of_pop h s
    exact hexec.trans (withPop16_refused_second ha ha1 k)
  case retCc =>
    obtain ⟨-, -, -, taken⟩ := exec_conditional_taken h
    exact (taken.trans (exec_ret s)).trans (withPop16_refused_second ha ha1 _)

end Sys2Proof.Machine
end

section
/-! Faults and interrupts (`60_exceptions.md` R300, R310 to R316): which machines take a Step, the delayed master
enable, interrupt entry and the scan. -/

namespace Sys2Proof.Machine

/-! ### Every Step that begins ends in a state (R300) -/

theorem true_cellInvariant : CellInvariant fun _ => True := ⟨fun _ _ _ => trivial, fun _ _ => trivial⟩

theorem step_answers {s : State} (h : s.fault = none) : Answers (step s) fun _ => True := by
  have hT := true_cellInvariant
  cases halted : s.halted with
  | true =>
    rw [step_of_halted h halted]
    exact hT.interruptPhase_keeps trivial
  | false =>
    rw [step_of_fetching h halted]
    exact hT.withInstr_keeps trivial fun i _ _ => hT.finishStep_keeps _ (hT.exec_keeps trivial i)

/-- Settles O8: no access, Operation or interrupt phase answers anything but a state, and the latch alone stops a
Step. -/
theorem onlyALatchedFaultStops : Obligations.OnlyALatchedFaultStops := by
  unfold Obligations.OnlyALatchedFaultStops
  refine fun s => ⟨fun h => ?_, fun f => step_of_latched⟩
  obtain ⟨t, ht, -⟩ := step_answers h
  exact ⟨t, ht⟩

/-! ### The delayed master enable (R314) -/

/-- What `Countdowns()` makes of (IME, pe, pd). -/
def countMaster (x : Bool × Countdown × Countdown) : Bool × Countdown × Countdown :=
  match x with
  | (ime, pe, pd) => ((ime || decide (pe = .due)) && !decide (pd = .due), pe.next, pd.next)

theorem countEnable_ime (c : IntCtl) : (countEnable c).ime = (c.ime || decide (c.pe = .due)) := by
  unfold countEnable
  cases h : c.pe <;> simp

theorem countDisable_ime (c : IntCtl) : (countDisable c).ime = (c.ime && !decide (c.pd = .due)) := by
  unfold countDisable
  cases h : c.pd <;> simp

theorem masterState_countdowns (s : State) : masterState (countdowns s) = countMaster (masterState s) := by
  obtain ⟨hpe, hpd⟩ := countdowns_counts s
  obtain ⟨-, pd⟩ := countEnable_counts s.intc
  have hime : (countdowns s).intc.ime = ((s.intc.ime || decide (s.intc.pe = .due)) && !decide (s.intc.pd = .due)) :=
    (countDisable_ime _).trans (by rw [countEnable_ime, pd])
  rw [masterState, hpe, hpd, hime]
  rfl

/-- The row of the table for the triple `x`: what X, EI, DI and RETI write of it, counted. -/
def masterRow (x : Bool × Countdown × Countdown) : (Bool × Countdown × Countdown) ×
    (Bool × Countdown × Countdown) × (Bool × Countdown × Countdown) ×
    (Bool × Countdown × Countdown) × (Bool × Countdown × Countdown) :=
  (x, countMaster x, countMaster (x.1, armIfIdle x.2.1, .idle), countMaster (x.1, .idle, armIfIdle x.2.2),
    countMaster (true, .idle, .idle))

theorem masterTable_eq_map : masterTable = (masterTable.map Prod.fst).map masterRow := rfl

theorem exec_masterState {i : Instr} {s t : State} (hei : i ≠ .ei) (hdi : i ≠ .di) (hreti : i ≠ .reti)
    (e : exec i s = .next t) : masterState t = masterState s := by
  obtain ⟨ime, counts, -⟩ := (exec_controlFrame i s).of_eq e
  obtain ⟨pe, pd⟩ := counts hei hdi hreti
  rw [masterState, masterState, ime hreti, pe, pd]

/-- RETI whose pop did not raise enables at once (R280). -/
theorem exec_reti_masterState {s t : State} (e : exec .reti s = .next t) (hf : t.fault = none) :
    masterState t = (true, .idle, .idle) := by
  have answer : Answers (exec .reti s) fun t => t.fault = none → masterState t = (true, .idle, .idle) := by
    rw [exec_reti]
    exact answers_withPop16 (fun _ _ _ _ => .next fun _ => rfl) fun _ _ => nofun
  exact answer.of_eq e hf

/-- Settles O15: the countdowns see of the state the triple alone. -/
theorem masterEnableTable : Obligations.MasterEnableTable := by
  unfold Obligations.MasterEnableTable
  intro s t x afterX afterEi afterDi afterReti row hx
  rw [masterTable_eq_map] at row
  obtain ⟨y, -, hy⟩ := List.mem_map.mp row
  cases hy
  subst hx
  refine ⟨fun i hei hdi hreti e => ?_, fun e => ?_, fun e => ?_, fun e hf => ?_⟩
  · rw [masterState_countdowns, exec_masterState hei hdi hreti e]
  · cases (exec_ei s).symm.trans e
    exact masterState_countdowns _
  · cases (exec_di s).symm.trans e
    exact masterState_countdowns _
  · rw [masterState_countdowns, exec_reti_masterState e hf]

/-! ### Interrupt entry (R316) -/

theorem IrqSource.bit_lt (i : IrqSource) : i.bit < 5 := by cases i <;> decide

/-- The mask is that of RES (R253). -/
theorem clearRequest_getLsbD (flags : Byte) (i : IrqSource) (j : Nat) :
    (clearRequest flags i).getLsbD j = if j = i.bit then false else flags.getLsbD j :=
  getLsbD_and_not_bitMask flags ⟨i.bit, Nat.lt_trans i.bit_lt (by decide)⟩ j

/-- Interrupt entry writes one register with an address, IF. -/
theorem busRead_enterVector (s : State) (i : IrqSource) {a : Word} (ha : a ≠ 0xFF0F) :
    busRead (enterVector s i) a = busRead s a := by
  by_cases hf : IsFatal a
  · rw [(busRead_eq_none_iff _).mpr hf, (busRead_eq_none_iff _).mpr hf]
  cases mapped_of_not_isFatal hf with
  | rom h => rw [busRead_rom _ h, busRead_rom _ h]; rfl
  | stub h => rw [busRead_stub _ h, busRead_stub _ h]; rfl
  | ram h => rw [busRead_ram _ h, busRead_ram _ h]; rfl
  | div | tima | tma | tac | ie => rfl
  | iflag => exact absurd rfl ha

theorem sameControl_trans {s t u : State} (h : SameControl s t) (h' : SameControl t u) : SameControl s u where
  ime := h'.ime.trans h.ime
  pe := h'.pe.trans h.pe
  pd := h'.pd.trans h.pd
  halted := h'.halted.trans h.halted
  fault := h'.fault.trans h.fault
  stubRead := h'.stubRead.trans h.stubRead
  requests := h'.requests.trans h.requests

theorem storedWord_control {s t : State} {a v : Word} (h : StoredWord s t a v) : SameControl s t :=
  let ⟨_, _, lo, hi⟩ := h
  sameControl_trans lo.control hi.control

/-- The byte below a fatal address is neither IF nor IE. -/
theorem stored_below_fatal_intc {s t : State} {a : Word} {v : Byte} (h : Stored s t a v) (ha1 : IsFatal (a + 1)) :
    t.intc = s.intc := by
  have notIf : a ≠ 0xFF0F := by rintro rfl; exact absurd ha1 (by decide)
  have notIe : a ≠ 0xFFFF := by rintro rfl; exact absurd ha1 (by decide)
  have fields : IntCtl.mk t.intc.ime t.intc.pe t.intc.pd t.intc.ie t.intc.iflag =
      IntCtl.mk s.intc.ime s.intc.pe s.intc.pd s.intc.ie s.intc.iflag := by
    rw [h.control.ime, h.control.pe, h.control.pd, h.ie, if_neg notIe, h.iflag, if_neg notIf]
  exact fields

/-- Settles O17: both bytes are pushed and the vector entered, or the push is refused at the first or the second. -/
theorem dispatchEntersTheVector : Obligations.DispatchEntersTheVector := by
  unfold Obligations.DispatchEntersTheVector
  refine fun s i => ⟨fun ha ha1 => ?entered, fun ha => ?firstRefused, fun ha ha1 => ?secondRefused⟩
  case entered =>
    obtain ⟨u, push, regs, stored⟩ := withPush16_effect s s.regs.pc ha ha1
    have control := storedWord_control stored
    refine ⟨enterVector u i, u, push _, stored, congrArg (fun g : Regs => { g with pc := i.vector }) regs,
      fun j _ => ?_, rfl, rfl, rfl, control.pe, control.pd, rfl, control.fault, fun a => busRead_enterVector u i⟩
    rw [enterVector, clearRequest_getLsbD]
    by_cases h : j = i.bit <;> simp [h]
  case firstRefused => exact withPush16_refused_first s s.regs.pc ha _
  case secondRefused =>
    obtain ⟨u, stored, refused⟩ := withPush16_refused_second s s.regs.pc ha ha1
    have intc : u.intc = s.intc := stored_below_fatal_intc stored ha1
    exact ⟨_, refused _, rfl, rfl, intc, stored.control.halted⟩

/-! ### The scan (R311, R313, R315) -/

theorem isPending_eq_true_iff (c : IntCtl) (i : IrqSource) :
    isPending c i = true ↔ c.ie.getLsbD i.bit = true ∧ c.iflag.getLsbD i.bit = true := by
  rw [isPending, Bool.and_eq_true]

theorem pendingSource_eq_none {c : IntCtl} (h : ∀ i, ¬ isPending c i = true) : pendingSource c = none :=
  List.find?_eq_none.mpr fun i _ => h i

/-- The list of the scan is in the order of the bits. -/
theorem pendingSource_eq_some {c : IntCtl} {i : IrqSource} (hi : isPending c i = true)
    (lower : ∀ j : IrqSource, j.bit < i.bit → ¬ isPending c j = true) : pendingSource c = some i := by
  unfold pendingSource
  cases i with
  | vblank => exact List.find?_cons_of_pos hi
  | lcdStat => rw [List.find?_cons_of_neg (lower .vblank (by decide)), List.find?_cons_of_pos hi]
  | timer =>
    rw [List.find?_cons_of_neg (lower .vblank (by decide)), List.find?_cons_of_neg (lower .lcdStat (by decide)),
      List.find?_cons_of_pos hi]
  | serial =>
    rw [List.find?_cons_of_neg (lower .vblank (by decide)), List.find?_cons_of_neg (lower .lcdStat (by decide)),
      List.find?_cons_of_neg (lower .timer (by decide)), List.find?_cons_of_pos hi]
  | joypad =>
    rw [List.find?_cons_of_neg (lower .vblank (by decide)), List.find?_cons_of_neg (lower .lcdStat (by decide)),
      List.find?_cons_of_neg (lower .timer (by decide)), List.find?_cons_of_neg (lower .serial (by decide)),
      List.find?_cons_of_pos hi]

theorem scan_eq_dispatch {s : State} {i : IrqSource} (h : pendingSource s.intc = some i) : scan s = dispatch i s := by
  rw [scan, h]

theorem scan_eq_next {s : State} (h : pendingSource s.intc = none) : scan s = .next s := by
  rw [scan, h]

theorem stored_of_busWrite {s t : State} {a : Word} {v : Byte} (h : busWrite s a v = some t) : Stored s t a v := by
  have mapped : ¬ IsFatal a := mt (busWrite_eq_none_iff s v).mpr (by rw [h]; nofun)
  obtain ⟨u, hu, -, stored⟩ := byteStoreEffect s a v mapped
  cases h.symm.trans hu
  exact stored

/-- A store elsewhere leaves IF as it was. -/
theorem busWrite_iflag {s t : State} {a : Word} {v : Byte} (h : busWrite s a v = some t) (ha : a ≠ 0xFF0F) :
    t.intc.iflag = s.intc.iflag :=
  (stored_of_busWrite h).iflag.trans (if_neg ha)

/-- Where no byte of the push is a store to IF, a dispatch leaves every request but its own. -/
theorem dispatch_keeps_requests (i : IrqSource) {s : State} (hsp : s.regs.sp - 2 ≠ 0xFF0F)
    (hsp1 : s.regs.sp - 1 ≠ 0xFF0F) :
    Answers (dispatch i s) fun t => ∀ j, j ≠ i.bit → t.intc.iflag.getLsbD j = s.intc.iflag.getLsbD j := by
  have second : pushAddress s + 1 = s.regs.sp - 1 := by rw [pushAddress]; bv_omega
  refine answers_dispatch (fun u t hu ht j hj => ?entered) (fun _ _ _ => rfl) fun u hu _ j _ => ?secondRefused
  case entered =>
    have low : u.intc.iflag = s.intc.iflag := busWrite_iflag (s := s.setSp (pushAddress s)) hu hsp
    have high : t.intc.iflag = u.intc.iflag := busWrite_iflag ht (second ▸ hsp1)
    rw [enterVector, clearRequest_getLsbD, if_neg hj, high, low]
  case secondRefused =>
    have low : u.intc.iflag = s.intc.iflag := busWrite_iflag (s := s.setSp (pushAddress s)) hu hsp
    exact congrArg (BitVec.getLsbD · j) low

/-- Settles O18: the scan finds the first pending source in the order of the bits. -/
theorem scanServesLowestPending : Obligations.ScanServesLowestPending := by
  unfold Obligations.ScanServesLowestPending
  refine ⟨rfl, fun s i hie hif lower => ?_, fun s none => ?_, fun s h => ?_, fun s h => ?_⟩
  · have found : pendingSource s.intc = some i :=
      pendingSource_eq_some ((isPending_eq_true_iff _ _).mpr ⟨hie, hif⟩) fun j hj =>
        mt (isPending_eq_true_iff _ _).mp (lower j.bit hj)
    rw [scan_eq_dispatch found]
    exact ⟨rfl, fun t e hsp hsp1 => (dispatch_keeps_requests i hsp hsp1).of_eq e⟩
  · exact scan_eq_next (pendingSource_eq_none fun i => mt (isPending_eq_true_iff _ _).mp (none i.bit i.bit_lt))
  · simp [interruptPhase, h]
  · simp [interruptPhase, h]

end Sys2Proof.Machine
end
